-- ==== Sys2Proof/Word.lean ====
section
/-! DEFINITION. The machine's word types (`00_scope.md` R5, R7): every value is unsigned, of a fixed width. -/

namespace Sys2Proof

/-- An 8-bit value: a V register, a memory byte, a timer (R5 `XLEN`). -/
abbrev Byte := BitVec 8

/-- A 16-bit value: `I`, `pc`, a return address, an instruction word (R5 `ILEN`, `PCLEN`). -/
abbrev Word := BitVec 16

/-- A register number, the 4-bit field X or Y of an instruction word (R10, R61). -/
abbrev Reg := BitVec 4

/-- A 4-bit field of an instruction word (R61). -/
abbrev Nibble := BitVec 4

/-- A 12-bit immediate NNN (R62). -/
abbrev Addr12 := BitVec 12

/-- VF, the flag register V[15] (R11). -/
abbrev regVF : Reg := 15

end Sys2Proof
end

