-- ==== Sys2Proof/Config.lean ====
section
/-! DEFINITION. What is fixed for a run (R6, R27) and what the environment supplies under no law (R29, `93_implementation_defined.md` U10 to U14).

The fixed parameters of R5 stand as literals where they are used: 4096 bytes of memory, 16 registers, 128 stack
entries, 64 columns, 32 rows, font at 0x050, programs at 0x200, image of at most 3584 bytes, 2 bytes an instruction. -/

namespace Sys2Proof

/-- The three dialect parameters of R6, held constant from reset to the end of the run (R27). -/
structure Toggles where
  /-- 1: `8XY6` and `8XYE` shift VY; 0: they shift VX. -/
  shiftLegacy : Bool
  /-- 1: `BNNN` adds V0; 0: it adds VX. -/
  jumpLegacy : Bool
  /-- 1: `FX55` and `FX65` add X + 1 to `I`; 0: they leave it. -/
  indexAdvance : Bool
deriving DecidableEq, Repr

/-- Whether a collaborator of the host fails in an iteration, and where the failure lands (R192; log 22). -/
inductive HostFailure where
  /-- no failure. -/
  | none
  /-- before the step: during the draw, or during a key query, which R192 and R185 place between steps. -/
  | beforeStep
  /-- between the step and the sound sample. -/
  | afterStep
  /-- after the sound sample: during the `play_sound` or `stop_sound` that it emitted, if it emitted one. -/
  | afterSample
  /-- after the host's `step()` event: during the host's own `step()`. -/
  | afterHostStep
deriving DecidableEq, Repr, Inhabited

/-- What the host and the tick agent do during ONE iteration of the run loop (R29, R200, R216), in the order in which it lands.
DESIGN CHOICE (logs 3, 4), safe: every schedule that R197 and R200 allow is some sequence of turns. -/
structure HostTurn where
  /-- `stop_req` as polled at line 1 of the iteration (R216). -/
  stopReq : Bool
  /-- the renderer clears `DIRTY` at the draw (R203). -/
  dirtyClear : Bool
  /-- ticks from the end of the last iteration, or from reset, to the step's own timer access, or to the stop poll that ends the run (R196, R197). -/
  ticksBefore : Nat
  /-- a failure of the host, and where it lands (R192). -/
  hostError : HostFailure
  /-- the level of `key[k]` is bit k (R150). -/
  keys : BitVec 16
  /-- the byte on input `rand` (R151). -/
  rand : Byte
  /-- ticks after the step's timer access and before the sound sample (R197). -/
  ticksAfter : Nat
  /-- ticks after the sound sample, to the end of the iteration or to the failure that ends the run (R196, R197). -/
  ticksLast : Nat
deriving DecidableEq, Repr, Inhabited

/-- A turn in which the host does nothing: no stop, no clear, no tick, no failure, no key held, `rand` 0. -/
def HostTurn.quiet : HostTurn :=
  { stopReq := false, dirtyClear := false, ticksBefore := 0, hostError := .none, keys := 0, rand := 0, ticksAfter := 0, ticksLast := 0 }

/-- FREE VALUE (log 3): the inputs of iteration n, where the state lists none. It has no body, so that nothing can be proved
about an input: "a model must let every claim hold for every sequence of key levels" (R150), "a draw under no law" (R151). -/
opaque Config.freeTurn : Nat → HostTurn

end Sys2Proof
end

