-- ==== Sys2Proof/Machine/ResetValues.lean ====
section
/-! DEFINITION. What memory and the configuration hold at reset (R14, R15, R46, D21), kept apart from `State.lean` so that a test can correct a value. -/

namespace Sys2Proof.Machine

/-- The default `FONT_DATA`, one row of bytes for each digit 0 to F (R15 table).
PRESUMED (log 7), unsafe: the spec gives these bytes "from general knowledge, not in source". -/
def fontGlyphs : List (List Byte) :=
  [ [0xF0, 0x90, 0x90, 0x90, 0xF0],
    [0x20, 0x60, 0x20, 0x20, 0x70],
    [0xF0, 0x10, 0xF0, 0x80, 0xF0],
    [0xF0, 0x10, 0xF0, 0x10, 0xF0],
    [0x90, 0x90, 0xF0, 0x10, 0x10],
    [0xF0, 0x80, 0xF0, 0x10, 0xF0],
    [0xF0, 0x80, 0xF0, 0x90, 0xF0],
    [0xF0, 0x10, 0x20, 0x40, 0x40] ] ++
  [ [0xF0, 0x90, 0xF0, 0x90, 0xF0],
    [0xF0, 0x90, 0xF0, 0x10, 0xF0],
    [0xF0, 0x90, 0xF0, 0x90, 0x90],
    [0xE0, 0x90, 0xE0, 0x90, 0xE0],
    [0xF0, 0x80, 0x80, 0x80, 0xF0],
    [0xE0, 0x90, 0x90, 0x90, 0xE0],
    [0xF0, 0x80, 0xF0, 0x80, 0xF0],
    [0xF0, 0x80, 0xF0, 0x80, 0x80] ]

/-- What an address that memory does not list reads as: the reset contents, font at 0x050 to 0x09F, else zero (R14, R46). -/
def unlistedByte (a : Nat) : Byte :=
  if 0x050 ≤ a ∧ a < 0x0A0 then (fontGlyphs.getD ((a - 0x050) / 5) []).getD ((a - 0x050) % 5) 0 else 0

/-- DESIGN CHOICE of the spec (D21, log 5), unsafe for claims about `State.reset` alone: all three toggles select the non-legacy behaviour. -/
def defaultToggles : Toggles := { shiftLegacy := false, jumpLegacy := false, indexAdvance := false }

/-- The entry point (R212); the spec's own decision D3 (log 6), unsafe. -/
def entryPoint : Word := 0x0200

end Sys2Proof.Machine
end

