-- ==== Sys2Proof/Machine/State.lean ====
section
/-! DEFINITION. The machine's state as plain data (`10_state.md` R10 to R28, R31), why a step stops, and the state after reset (R210, R30). -/

namespace Sys2Proof.Machine

/-- Main memory (R13): (address, byte) pairs in one canonical form (`Memory.wf`); an unlisted address reads as `unlistedByte`. -/
abbrev Memory := List Host.Cell

/-- The framebuffer FB[row][col], 32 rows of 64 cells, `true` for 1 (R24). -/
abbrev Grid := Vector (Vector Bool 64) 32

/-- The cause of a fault (R181), by name. -/
inductive Cause where
  /-- 0: no fault has occurred -/
  | none
  /-- 1: a memory access at an address of 4096 or more -/
  | memOob
  /-- 2: a register number outside 0 to 15; nothing can raise it (R183) -/
  | regOob
  /-- 3: a push with SP = 128 -/
  | stackOverflow
  /-- 4: a pop with SP = 0 -/
  | stackUnderflow
  /-- 5: a framebuffer access outside 32 rows and 64 columns; no instruction can raise it (R183) -/
  | fbOob
  /-- 6: a key number above 15 (D12) -/
  | keyRange
  /-- 7: a font digit above 15 (D11) -/
  | glyphRange
  /-- 8: a failure reported by the host (R192) -/
  | hostError
deriving DecidableEq, Repr

/-- An event the core emits to the host (R29 "The outputs are", R171, R199, R200). -/
inductive OutEvent where
  /-- the host is given the framebuffer and this value of DIRTY (R203) -/
  | draw (dirty : Bool)
  /-- `Report(UNIMPL, op)` (R171) -/
  | report (op : Word)
  /-- `play_sound` (R199) -/
  | playSound
  /-- `stop_sound` (R199) -/
  | stopSound
  /-- the host's `step()`, once per iteration (R200, R216 line 5) -/
  | hostStep
deriving DecidableEq, Repr

/-- The whole state. The fields down to `info` are the spec's (R30 table); `toggles` is the configuration latched at reset (R27, log 5);
the last four are the model's own (logs 2, 3, 8). -/
structure State where
  /-- V0 to VF (R10, R11) -/
  v : Vector Byte 16
  /-- the index register I (R17) -/
  i : Word
  /-- the program counter (R18) -/
  pc : Word
  /-- STACK[0..127] (R19) -/
  stack : Vector Word 128
  /-- SP, the number of return addresses held (R19) -/
  sp : Nat
  /-- MEM (R13) -/
  mem : Memory
  /-- FB (R24) -/
  fb : Grid
  /-- DIRTY (R25) -/
  dirty : Bool
  /-- DT, the delay timer (R23) -/
  dt : Byte
  /-- ST, the sound timer (R23) -/
  st : Byte
  /-- SOUNDING, the sound level last reported (R26) -/
  sounding : Bool
  /-- FAULTED (R28) -/
  faulted : Bool
  /-- CAUSE (R28) -/
  cause : Cause
  /-- INFO (R28) -/
  info : Word
  /-- SHIFT_LEGACY, JUMP_LEGACY, INDEX_ADVANCE as sampled at reset (R210) -/
  toggles : Toggles
  /-- the run has ended normally (R216 line 1) -/
  ended : Bool
  /-- the output events so far, newest first -/
  events : List OutEvent
  /-- the host's coming turns, oldest first; where it is empty the inputs are free -/
  turns : List HostTurn
  /-- the number of the iteration, the argument of the free inputs -/
  iter : Nat
deriving DecidableEq, Repr

/-- Why the machine takes no step. -/
inductive Fault where
  /-- Raised by `step` alone, when FAULTED = 1 at its start: "no further step, tick, sound sample or draw is performed" (R180).
  Safe: the machine has stopped, with this cause and information value. -/
  | halted (cause : Cause) (info : Word)
  /-- Raised by `step` alone, when the run has ended normally (R216). Safe: the machine has stopped. -/
  | runEnded
deriving DecidableEq, Repr

/-- Why an instruction has no meaning. -/
inductive Refusal where
  /-- An arm of `exec` that has no meaning yet; no arm is left with it. Safe: nothing is claimed of the instruction. -/
  | notModelled (mnemonic : String)
deriving DecidableEq, Repr

/-- The machine right after reset, before the program is loaded (R210, R30). The value of SP and the contents of memory are the source's;
the other values are the spec's own decisions D3 to D8, D18 and D21 (logs 5, 6); the last four fields are the model's own (logs 2, 3, 8). -/
def State.reset : State where
  v := Vector.replicate 16 0
  i := 0
  pc := entryPoint
  stack := Vector.replicate 128 0
  sp := 0
  mem := []
  fb := Vector.replicate 32 (Vector.replicate 64 false)
  dirty := false
  dt := 0
  st := 0
  sounding := false
  faulted := false
  cause := .none
  info := 0
  toggles := defaultToggles
  ended := false
  events := []
  turns := []
  iter := 0

end Sys2Proof.Machine
end

