-- ==== Sys2Proof/Machine/Memory.lean ====
section
/-! DEFINITION. Main memory as a canonical list of cells, and the framebuffer as a grid: reading and writing one byte or one cell. -/

namespace Sys2Proof.Machine

/-- The byte at an address (R40). -/
def Memory.read : Memory → Nat → Byte
  | [], a => unlistedByte a
  | (a', b) :: m, a => if a = a' then b else Memory.read m a

/-- The memory that does not list an address. -/
def Memory.erase : Memory → Nat → Memory
  | [], _ => []
  | (a', b) :: m, a => if a' = a then Memory.erase m a else (a', b) :: Memory.erase m a

/-- List a byte at an address, before the first larger address. -/
def Memory.insert : Memory → Nat → Byte → Memory
  | [], a, b => [(a, b)]
  | (a', b') :: m, a, b => if a < a' then (a, b) :: (a', b') :: m else (a', b') :: Memory.insert m a b

/-- Write the byte at an address of the 4096 there are; outside them memory is unchanged (R41). Writing what an unlisted address reads as
removes the entry, so that equal memories are equal lists. -/
def Memory.write (m : Memory) (a : Nat) (b : Byte) : Memory :=
  if 4096 ≤ a then m
  else if b = unlistedByte a then m.erase a
  else (m.erase a).insert a b

/-- Write bytes at rising addresses. -/
def Memory.writeBytes : Memory → Nat → List Byte → Memory
  | m, _, [] => m
  | m, a, b :: bs => Memory.writeBytes (Memory.write m a b) (a + 1) bs

/-- Canonical from address `lo` on. -/
def Memory.wfFrom : Nat → Memory → Bool
  | _, [] => true
  | lo, (a, b) :: m => decide (lo ≤ a) && decide (a < 4096) && !(b == unlistedByte a) && Memory.wfFrom (a + 1) m

/-- The canonical form: addresses strictly rising and below 4096, no entry equal to what an unlisted address reads as. -/
def Memory.wf (m : Memory) : Bool := Memory.wfFrom 0 m

/-- The cell FB[row][col]; outside the grid there is none, and the operations below fault before they ask (R24, R140). -/
def Grid.get (g : Grid) (row col : Nat) : Bool :=
  if h : row < 32 ∧ col < 64 then (g[row]'h.1)[col]'h.2 else false

/-- FB[row][col] <- b. -/
def Grid.put (g : Grid) (row col : Nat) (b : Bool) : Grid :=
  if h : row < 32 ∧ col < 64 then g.set row ((g[row]'h.1).set col b h.2) h.1 else g

/-- Every cell 0 (R142). -/
def Grid.blank : Grid := Vector.replicate 32 (Vector.replicate 64 false)

end Sys2Proof.Machine
end

