-- ==== Sys2Proof/Machine/Boot.lean ====
section
/-! DEFINITION. Reset with given parameters and the load of the program image (R210, R214, R191). -/

namespace Sys2Proof.Machine

/-- Reset with the parameters of R6: the toggles sampled at reset and FONT_DATA written at 0x050 (R210). -/
def State.resetWith (toggles : Toggles) (font : Vector Byte 80) : State :=
  { State.reset with toggles := toggles, mem := Memory.writeBytes [] 0x050 font.toList }

/-- Why the run does not begin. -/
inductive LoadError where
  /-- the image is longer than 3584 bytes (R214); "not a Fault: FAULTED stays 0 and the run does not begin" (R191) -/
  | imageTooLong
deriving DecidableEq, Repr

/-- Program load (R214): the image verbatim at 0x200, nothing else written; an image above 3584 bytes is refused and no byte is written (R191). -/
def loadProgram (image : List Byte) (s : State) : Except LoadError State :=
  if 3584 < image.length then .error .imageTooLong
  else .ok { s with mem := s.mem.writeBytes 0x0200 image }

end Sys2Proof.Machine
end

