-- ==== Sys2Proof/Syntax.lean ====
section
/-! DEFINITION. The instructions: one constructor per row of `spec/opcode_table.json` (R66), with the operand fields of R63. -/

namespace Sys2Proof

/-- One instruction. `x`, `y` are register numbers, `n`, `nn`, `nnn` the immediates of R62; `unimpl w` is a word that matches no row. -/
inductive Instr where
  /-- `00E0` -/
  | cls
  /-- `00EE` -/
  | ret
  /-- `1NNN` -/
  | jp (nnn : Addr12)
  /-- `2NNN` -/
  | call (nnn : Addr12)
  /-- `3XNN` -/
  | seImm (x : Reg) (nn : Byte)
  /-- `4XNN` -/
  | sneImm (x : Reg) (nn : Byte)
  /-- `5XY0` -/
  | seReg (x y : Reg)
  /-- `9XY0` -/
  | sneReg (x y : Reg)
  /-- `6XNN` -/
  | ldImm (x : Reg) (nn : Byte)
  /-- `7XNN` -/
  | addImm (x : Reg) (nn : Byte)
  /-- `8XY0` -/
  | ldReg (x y : Reg)
  /-- `8XY1` -/
  | orReg (x y : Reg)
  /-- `8XY2` -/
  | andReg (x y : Reg)
  /-- `8XY3` -/
  | xorReg (x y : Reg)
  /-- `8XY4` -/
  | addReg (x y : Reg)
  /-- `8XY5` -/
  | sub (x y : Reg)
  /-- `8XY7` -/
  | subn (x y : Reg)
  /-- `8XY6` -/
  | shr (x y : Reg)
  /-- `8XYE` -/
  | shl (x y : Reg)
  /-- `ANNN` -/
  | ldI (nnn : Addr12)
  /-- `BNNN` -/
  | jpOff (nnn : Addr12)
  /-- `CXNN` -/
  | rnd (x : Reg) (nn : Byte)
  /-- `DXYN` -/
  | drw (x y : Reg) (n : Nibble)
  /-- `EX9E` -/
  | skp (x : Reg)
  /-- `EXA1` -/
  | sknp (x : Reg)
  /-- `FX07` -/
  | ldVxDt (x : Reg)
  /-- `FX15` -/
  | ldDtVx (x : Reg)
  /-- `FX18` -/
  | ldStVx (x : Reg)
  /-- `FX1E` -/
  | addI (x : Reg)
  /-- `FX0A` -/
  | ldVxKey (x : Reg)
  /-- `FX29` -/
  | ldFont (x : Reg)
  /-- `FX33` -/
  | bcd (x : Reg)
  /-- `FX55` -/
  | stRegs (x : Reg)
  /-- `FX65` -/
  | ldRegs (x : Reg)
  /-- every other word -/
  | unimpl (w : Word)
deriving DecidableEq, Repr

end Sys2Proof
end

