-- ==== Sys2Proof/WellFormed.lean ====
section
/-! DEFINITION. Which terms of `Instr` stand for an instruction word.

Every operand has exactly the width of its field, so that a check is needed for the catch-all row only: `unimpl w` stands for an
unimplemented word, and the class table of R170 says which words those are. It is written from R170's list, not from the match and mask
columns of R66 that `Decode.lean` uses, so that the two can be held against each other. -/

namespace Sys2Proof

/-- The unimplemented words, class by class (R170 "By class", R66 second table). -/
def unimplementedWord (w : Word) : Bool :=
  let cls := w.extractLsb' 12 4
  let n   := w.extractLsb' 0 4
  let nn  := w.extractLsb' 0 8
  if cls = 0x0 then !(w == 0x00E0 || w == 0x00EE)
  else if cls = 0x5 then !(n == 0x0)
  else if cls = 0x8 then [0x8, 0x9, 0xA, 0xB, 0xC, 0xD, 0xF].contains n
  else if cls = 0x9 then !(n == 0x0)
  else if cls = 0xE then !(nn == 0x9E || nn == 0xA1)
  else if cls = 0xF then !([0x07, 0x0A, 0x15, 0x18, 0x1E, 0x29, 0x33, 0x55, 0x65].contains nn)
  else false

/-- A term is well formed when it is the one reading of some word. -/
def Instr.wf : Instr → Bool
  | .cls => true
  | .ret => true
  | .jp _ => true
  | .call _ => true
  | .seImm _ _ => true
  | .sneImm _ _ => true
  | .seReg _ _ => true
  | .sneReg _ _ => true
  | .ldImm _ _ => true
  | .addImm _ _ => true
  | .ldReg _ _ => true
  | .orReg _ _ => true
  | .andReg _ _ => true
  | .xorReg _ _ => true
  | .addReg _ _ => true
  | .sub _ _ => true
  | .subn _ _ => true
  | .shr _ _ => true
  | .shl _ _ => true
  | .ldI _ => true
  | .jpOff _ => true
  | .rnd _ _ => true
  | .drw _ _ _ => true
  | .skp _ => true
  | .sknp _ => true
  | .ldVxDt _ => true
  | .ldDtVx _ => true
  | .ldStVx _ => true
  | .addI _ => true
  | .ldVxKey _ => true
  | .ldFont _ => true
  | .bcd _ => true
  | .stRegs _ => true
  | .ldRegs _ => true
  | .unimpl w => unimplementedWord w

end Sys2Proof
end

