-- ==== Sys2Proof/Decode.lean ====
section
/-! DEFINITION. The decoder, read off the dispatch table of R66 (match and mask), and the encoder, read off the field layout of R61 to R63. -/

namespace Sys2Proof

/-! ## Fields of an instruction word (R61, R62) -/

/-- X, bits 11:8. -/
def fieldX (w : Word) : Reg := w.extractLsb' 8 4

/-- Y, bits 7:4. -/
def fieldY (w : Word) : Reg := w.extractLsb' 4 4

/-- N, bits 3:0. -/
def fieldN (w : Word) : Nibble := w.extractLsb' 0 4

/-- NN, bits 7:0. -/
def fieldNN (w : Word) : Byte := w.extractLsb' 0 8

/-- NNN, bits 11:0. -/
def fieldNNN (w : Word) : Addr12 := w.extractLsb' 0 12

/-! ## The dispatch table (R66) -/

/-- One row: a word selects it when its masked bits equal the pattern (R64); `build` takes its operands out. -/
structure OpRow where
  mnemonic : String
  pattern  : Word
  mask     : Word
  build    : Word → Instr

/-- `(op AND mask) = match` (R64). -/
def OpRow.selects (r : OpRow) (w : Word) : Bool := (w &&& r.mask) == r.pattern

/-- Classes 0 to 7 and 9, in the order of R66. -/
def rowsControlAndLoad : List OpRow :=
  [ ⟨"CLS",      0x00E0, 0xFFFF, fun _ => .cls⟩,
    ⟨"RET",      0x00EE, 0xFFFF, fun _ => .ret⟩,
    ⟨"JP",       0x1000, 0xF000, fun w => .jp (fieldNNN w)⟩,
    ⟨"CALL",     0x2000, 0xF000, fun w => .call (fieldNNN w)⟩,
    ⟨"SE_IMM",   0x3000, 0xF000, fun w => .seImm (fieldX w) (fieldNN w)⟩,
    ⟨"SNE_IMM",  0x4000, 0xF000, fun w => .sneImm (fieldX w) (fieldNN w)⟩,
    ⟨"SE_REG",   0x5000, 0xF00F, fun w => .seReg (fieldX w) (fieldY w)⟩,
    ⟨"SNE_REG",  0x9000, 0xF00F, fun w => .sneReg (fieldX w) (fieldY w)⟩,
    ⟨"LD_IMM",   0x6000, 0xF000, fun w => .ldImm (fieldX w) (fieldNN w)⟩,
    ⟨"ADD_IMM",  0x7000, 0xF000, fun w => .addImm (fieldX w) (fieldNN w)⟩ ]

/-- Class 8. -/
def rowsAlu : List OpRow :=
  [ ⟨"LD_REG",   0x8000, 0xF00F, fun w => .ldReg (fieldX w) (fieldY w)⟩,
    ⟨"OR",       0x8001, 0xF00F, fun w => .orReg (fieldX w) (fieldY w)⟩,
    ⟨"AND",      0x8002, 0xF00F, fun w => .andReg (fieldX w) (fieldY w)⟩,
    ⟨"XOR",      0x8003, 0xF00F, fun w => .xorReg (fieldX w) (fieldY w)⟩,
    ⟨"ADD_REG",  0x8004, 0xF00F, fun w => .addReg (fieldX w) (fieldY w)⟩,
    ⟨"SUB",      0x8005, 0xF00F, fun w => .sub (fieldX w) (fieldY w)⟩,
    ⟨"SUBN",     0x8007, 0xF00F, fun w => .subn (fieldX w) (fieldY w)⟩,
    ⟨"SHR",      0x8006, 0xF00F, fun w => .shr (fieldX w) (fieldY w)⟩,
    ⟨"SHL",      0x800E, 0xF00F, fun w => .shl (fieldX w) (fieldY w)⟩ ]

/-- Classes A to F. -/
def rowsIndexAndEnvironment : List OpRow :=
  [ ⟨"LD_I",     0xA000, 0xF000, fun w => .ldI (fieldNNN w)⟩,
    ⟨"JP_OFF",   0xB000, 0xF000, fun w => .jpOff (fieldNNN w)⟩,
    ⟨"RND",      0xC000, 0xF000, fun w => .rnd (fieldX w) (fieldNN w)⟩,
    ⟨"DRW",      0xD000, 0xF000, fun w => .drw (fieldX w) (fieldY w) (fieldN w)⟩,
    ⟨"SKP",      0xE09E, 0xF0FF, fun w => .skp (fieldX w)⟩,
    ⟨"SKNP",     0xE0A1, 0xF0FF, fun w => .sknp (fieldX w)⟩,
    ⟨"LD_VX_DT", 0xF007, 0xF0FF, fun w => .ldVxDt (fieldX w)⟩,
    ⟨"LD_DT_VX", 0xF015, 0xF0FF, fun w => .ldDtVx (fieldX w)⟩,
    ⟨"LD_ST_VX", 0xF018, 0xF0FF, fun w => .ldStVx (fieldX w)⟩,
    ⟨"ADD_I",    0xF01E, 0xF0FF, fun w => .addI (fieldX w)⟩,
    ⟨"LD_VX_KEY", 0xF00A, 0xF0FF, fun w => .ldVxKey (fieldX w)⟩,
    ⟨"LD_FONT",  0xF029, 0xF0FF, fun w => .ldFont (fieldX w)⟩,
    ⟨"BCD",      0xF033, 0xF0FF, fun w => .bcd (fieldX w)⟩,
    ⟨"ST_REGS",  0xF055, 0xF0FF, fun w => .stRegs (fieldX w)⟩,
    ⟨"LD_REGS",  0xF065, 0xF0FF, fun w => .ldRegs (fieldX w)⟩ ]

/-- The 34 rows of R66. -/
def opcodeRows : List OpRow := rowsControlAndLoad ++ rowsAlu ++ rowsIndexAndEnvironment

/-! ## Decoding (R64, R67) -/

/-- The instruction a word selects; a word that no row matches is unimplemented (R67). Total, and no word is a fault (R64). -/
def decode (w : Word) : Instr :=
  match opcodeRows.find? (fun r => r.selects w) with
  | some r => r.build w
  | none => .unimpl w

/-- Why a string of bytes holds no instruction. -/
inductive DecodeError where
  /-- fewer than the two bytes every instruction has (R61) -/
  | truncated
deriving DecidableEq, Repr

/-- The word formed from the byte at `pc` and the byte at `pc + 1` (R42: big-endian). -/
def wordOfBytes (hi lo : Byte) : Word := hi ++ lo

/-- Decoding bytes: the instruction and the bytes after it (R42, R61). -/
def decodeBytes : List Byte → Except DecodeError (Instr × List Byte)
  | hi :: lo :: rest => .ok (decode (wordOfBytes hi lo), rest)
  | _ => .error .truncated

/-- The host's entry: bits `nbits - 1 .. 0` of `w`, numbered as the opcode table numbers them, laid out high byte first (R42). -/
def decodeTableWord (nbits w : Nat) : Option Instr :=
  let op : Word := BitVec.ofNat 16 (w % 2 ^ nbits)
  match decodeBytes [op.extractLsb' 8 8, op.extractLsb' 0 8] with
  | .ok (i, _) => some i
  | .error _ => none

/-! ## Encoding (R61 figure, R63 formats) -/

/-- Format A: class, NNN. -/
def formatA (cls : Nibble) (nnn : Addr12) : Word := cls ++ nnn

/-- Format XB: class, X, NN. -/
def formatXB (cls : Nibble) (x : Reg) (nn : Byte) : Word := cls ++ x ++ nn

/-- Formats XY and XYN: class, X, Y, N. -/
def formatXYN (cls : Nibble) (x y : Reg) (n : Nibble) : Word := cls ++ x ++ y ++ n

/-- The word of an instruction; format XF is XB with a fixed low byte, format Z a constant. -/
def encode : Instr → Word
  | .cls => 0x00E0
  | .ret => 0x00EE
  | .jp nnn => formatA 0x1 nnn
  | .call nnn => formatA 0x2 nnn
  | .seImm x nn => formatXB 0x3 x nn
  | .sneImm x nn => formatXB 0x4 x nn
  | .seReg x y => formatXYN 0x5 x y 0x0
  | .sneReg x y => formatXYN 0x9 x y 0x0
  | .ldImm x nn => formatXB 0x6 x nn
  | .addImm x nn => formatXB 0x7 x nn
  | .ldReg x y => formatXYN 0x8 x y 0x0
  | .orReg x y => formatXYN 0x8 x y 0x1
  | .andReg x y => formatXYN 0x8 x y 0x2
  | .xorReg x y => formatXYN 0x8 x y 0x3
  | .addReg x y => formatXYN 0x8 x y 0x4
  | .sub x y => formatXYN 0x8 x y 0x5
  | .subn x y => formatXYN 0x8 x y 0x7
  | .shr x y => formatXYN 0x8 x y 0x6
  | .shl x y => formatXYN 0x8 x y 0xE
  | .ldI nnn => formatA 0xA nnn
  | .jpOff nnn => formatA 0xB nnn
  | .rnd x nn => formatXB 0xC x nn
  | .drw x y n => formatXYN 0xD x y n
  | .skp x => formatXB 0xE x 0x9E
  | .sknp x => formatXB 0xE x 0xA1
  | .ldVxDt x => formatXB 0xF x 0x07
  | .ldDtVx x => formatXB 0xF x 0x15
  | .ldStVx x => formatXB 0xF x 0x18
  | .addI x => formatXB 0xF x 0x1E
  | .ldVxKey x => formatXB 0xF x 0x0A
  | .ldFont x => formatXB 0xF x 0x29
  | .bcd x => formatXB 0xF x 0x33
  | .stRegs x => formatXB 0xF x 0x55
  | .ldRegs x => formatXB 0xF x 0x65
  | .unimpl w => w

/-- The two bytes of an instruction in memory order (R42, R61). -/
def encodeBytes (i : Instr) : List Byte := [(encode i).extractLsb' 8 8, (encode i).extractLsb' 0 8]

end Sys2Proof
end

