-- ==== Sys2Proof/Machine/Ops.lean ====
section
/-! DEFINITION. The named operations over the state that the instruction rules are written in (`00_scope.md` R8), taking a fault among them.

An operation that can raise a fault answers `.error` with the state the fault leaves (R184: every write made before the raise stands, none
after it is made), or `.ok`. -/

namespace Sys2Proof.Machine

/-! ## Registers -/

/-- `V[x]` (R10). -/
def State.getV (s : State) (x : Reg) : Byte := s.v[x.toNat]'x.isLt

/-- `V[x] <- b` (R10). -/
def State.setV (s : State) (x : Reg) (b : Byte) : State := { s with v := s.v.set x.toNat b x.isLt }

/-- `I <- w` (R17). -/
def State.setI (s : State) (w : Word) : State := { s with i := w }

/-- `pc <- w` (R18). -/
def State.setPc (s : State) (w : Word) : State := { s with pc := w }

/-- `DT <- b`, one atomic write (R23). -/
def State.setDt (s : State) (b : Byte) : State := { s with dt := b }

/-- `ST <- b`, one atomic write (R23). -/
def State.setSt (s : State) (b : Byte) : State := { s with st := b }

/-- "Skip next instruction" when the condition holds: `pc <- pc + 2` after the fetch advance (R80). -/
def State.skipIf (s : State) (c : Bool) : State := { s with pc := if c then s.pc + 2 else s.pc }

/-! ## Taking a fault -/

/-- CAUSE's 4-bit code (R181). -/
def Cause.code : Cause → BitVec 4
  | .none => 0
  | .memOob => 1
  | .regOob => 2
  | .stackOverflow => 3
  | .stackUnderflow => 4
  | .fbOob => 5
  | .keyRange => 6
  | .glyphRange => 7
  | .hostError => 8

/-- `raise Fault(code, info)` (R180): FAULTED <- 1, CAUSE <- code, INFO <- info mod 65536. There is no handler, no vector, no saved register
(R187) and no return (R188); the run ends because `step` takes no step from a faulted state. -/
def State.raise (s : State) (c : Cause) (info : Nat) : State :=
  { s with faulted := true, cause := c, info := BitVec.ofNat 16 info }

/-- The outcome of an instruction that may have raised a fault: in both cases a next state (log 1). -/
def finish : Except State State → Host.Outcome State Fault Refusal
  | .ok s => .next s
  | .error s => .next s

/-! ## Memory -/

/-- `MemRead(a, 1)` (R40). -/
def loadByte (s : State) (a : Nat) : Except State Byte :=
  if 4096 ≤ a then .error (s.raise .memOob a) else .ok (s.mem.read a)

/-- `MemWrite(a, 1, b)` (R41). -/
def storeByte (s : State) (a : Nat) (b : Byte) : Except State State :=
  if 4096 ≤ a then .error (s.raise .memOob a) else .ok { s with mem := s.mem.write a b }

/-- Single-byte stores in ascending address order, stopped by the first that faults (R45, R126). -/
def storeBytes : State → Nat → List Byte → Except State State
  | s, _, [] => .ok s
  | s, a, b :: bs =>
    match storeByte s a b with
    | .ok s' => storeBytes s' (a + 1) bs
    | .error e => .error e

/-- `n` loads into V[k], V[k + 1], … from a, a + 1, …, stopped by the first that faults (R45, R125, R126). -/
def loadRegs : State → Nat → Nat → Nat → Except State State
  | s, _, _, 0 => .ok s
  | s, a, k, n + 1 =>
    match loadByte s a with
    | .ok b => loadRegs (s.setV (BitVec.ofNat 4 k) b) (a + 1) (k + 1) n
    | .error e => .error e

/-! ## Call stack -/

/-- The entry STACK[j] (R19). -/
def State.entry (s : State) (j : Nat) : Word := (s.stack[j]?).getD 0

/-- `Push(w)` (R20). SP above 128 is in no reachable state (R33); there a push overflows as well (log 20). -/
def push (s : State) (w : Word) : Except State State :=
  if 128 ≤ s.sp then .error (s.raise .stackOverflow w.toNat)
  else .ok { s with stack := s.stack.setIfInBounds s.sp w, sp := s.sp + 1 }

/-- `Pop()` (R21). The popped entry keeps its value in the array. -/
def pop (s : State) : Except State (Word × State) :=
  if s.sp = 0 then .error (s.raise .stackUnderflow 0)
  else .ok (s.entry (s.sp - 1), { s with sp := s.sp - 1 })

/-! ## Framebuffer unit -/

/-- `FbGet(row, col)` (R140). -/
def fbGet (s : State) (row col : Nat) : Except State Bool :=
  if 32 ≤ row ∨ 64 ≤ col then .error (s.raise .fbOob (row * 256 + col)) else .ok (s.fb.get row col)

/-- `FbXor(row, col, b)` (R141): the answer is `true` when the cell went from 1 to 0. DIRTY is set whether or not the cell changed (D16, log 14). -/
def fbXor (s : State) (row col : Nat) (b : Bool) : Except State (Bool × State) :=
  if 32 ≤ row ∨ 64 ≤ col then .error (s.raise .fbOob (row * 256 + col))
  else .ok (s.fb.get row col && b, { s with fb := s.fb.put row col (s.fb.get row col ^^ b), dirty := true })

/-- `FbSet(row, col, b)` (R146); no instruction uses it. -/
def fbSet (s : State) (row col : Nat) (b : Bool) : Except State State :=
  if 32 ≤ row ∨ 64 ≤ col then .error (s.raise .fbOob (row * 256 + col))
  else .ok { s with fb := s.fb.put row col b, dirty := true }

/-- `FbClear()` (R142). -/
def fbClear (s : State) : State := { s with fb := Grid.blank, dirty := true }

/-- What `draw` hands to the host: all cells in row-major order, and DIRTY (R24, R203). -/
def State.readout (s : State) : List Bool × Bool :=
  ((List.range 32).flatMap (fun r => (List.range 64).map (fun c => s.fb.get r c)), s.dirty)

/-! ## Inputs and outputs -/

/-- The inputs of this iteration: the first turn listed, or a free value (R29, log 3). -/
def State.turn (s : State) : HostTurn :=
  match s.turns with
  | t :: _ => t
  | [] => Config.freeTurn s.iter

/-- `KeyHeld(k)` (R150), for k from 0 to 15. -/
def keyHeld (s : State) (k : Nat) : Bool := s.turn.keys.getLsbD k

/-- The least k in 0..15 with `KeyHeld(k) = 1` (R156; D13, log 12). -/
def leastHeldKey (s : State) : Option Nat := (List.range 16).find? (fun k => keyHeld s k)

/-- `Rand8()` (R151). -/
def rand8 (s : State) : Byte := s.turn.rand

/-- Emit an output event. -/
def State.emit (s : State) (e : OutEvent) : State := { s with events := e :: s.events }

end Sys2Proof.Machine
end

