-- ==== Sys2Proof/Machine/Operands.lean ====
section
/-! DEFINITION. The operand forms that are more than a register or an immediate (R62, R88, R109, R126). -/

namespace Sys2Proof.Machine

/-- `zext_16(NNN)` (R62). -/
def zext16 (nnn : Addr12) : Word := nnn.setWidth 16

/-- The source of `8XY6` and `8XYE`: VY when SHIFT_LEGACY = 1, else VX (R109, R111). -/
def shiftSource (s : State) (x y : Reg) : Byte := if s.toggles.shiftLegacy then s.getV y else s.getV x

/-- The offset of `BNNN`: V0 when JUMP_LEGACY = 1, else V[X], X being the top nibble of NNN (R88). -/
def jumpOffset (s : State) (nnn : Addr12) : Byte :=
  if s.toggles.jumpLegacy then s.getV 0 else s.getV (nnn.extractLsb' 8 4)

/-- The effective address I + k, a natural number that is not reduced (R48, R126). -/
def State.ea (s : State) (k : Nat) : Nat := s.i.toNat + k

/-- V[0] to V[X] inclusive (R124). -/
def regBlock (s : State) (x : Reg) : List Byte := (List.range (x.toNat + 1)).map (fun k => s.getV (BitVec.ofNat 4 k))

/-- "if INDEX_ADVANCE = 1 then I <- I + X + 1" (R124, R125). -/
def advanceIndex (s : State) (x : Reg) : State :=
  { s with i := if s.toggles.indexAdvance then BitVec.ofNat 16 (s.i.toNat + x.toNat + 1) else s.i }

/-- The decimal digits of a byte: hundreds, tens, ones (R123). -/
def decimalDigits (b : Byte) : List Byte :=
  [BitVec.ofNat 8 (b.toNat / 100), BitVec.ofNat 8 (b.toNat / 10 % 10), BitVec.ofNat 8 (b.toNat % 10)]

/-- FONT_BASE + 5 * d (R16, R122). -/
def glyphAddress (d : Byte) : Word := BitVec.ofNat 16 (0x0050 + 5 * d.toNat)

end Sys2Proof.Machine
end

