-- ==== Sys2Proof/Machine/ControlFlow.lean ====
section
/-! DEFINITION. Control transfer (`40_control_flow.md`). `pc` holds the instruction's address plus 2 at entry (R60, R80). -/

namespace Sys2Proof.Machine

/-- `00EE` (R81). -/
def execRet (s : State) : Host.Outcome State Fault Refusal :=
  match pop s with
  | .ok (target, s') => .next (s'.setPc target)
  | .error e => .next e

/-- `1NNN` (R82). -/
def execJp (nnn : Addr12) (s : State) : Host.Outcome State Fault Refusal := .next (s.setPc (zext16 nnn))

/-- `2NNN` (R83): the post-fetch `pc` is pushed before the jump (C7). -/
def execCall (nnn : Addr12) (s : State) : Host.Outcome State Fault Refusal :=
  match push s s.pc with
  | .ok s' => .next (s'.setPc (zext16 nnn))
  | .error e => .next e

/-- `3XNN` (R84). -/
def execSeImm (x : Reg) (nn : Byte) (s : State) : Host.Outcome State Fault Refusal := .next (s.skipIf (s.getV x == nn))

/-- `4XNN` (R85). -/
def execSneImm (x : Reg) (nn : Byte) (s : State) : Host.Outcome State Fault Refusal := .next (s.skipIf (s.getV x != nn))

/-- `5XY0` (R86). -/
def execSeReg (x y : Reg) (s : State) : Host.Outcome State Fault Refusal := .next (s.skipIf (s.getV x == s.getV y))

/-- `9XY0` (R87). -/
def execSneReg (x y : Reg) (s : State) : Host.Outcome State Fault Refusal := .next (s.skipIf (s.getV x != s.getV y))

/-- `BNNN` (R88): the sum is not reduced to 12 bits (D23, log 18). -/
def execJpOff (nnn : Addr12) (s : State) : Host.Outcome State Fault Refusal :=
  .next (s.setPc (BitVec.ofNat 16 (nnn.toNat + (jumpOffset s nnn).toNat)))

end Sys2Proof.Machine
end

