-- ==== Sys2Proof/Machine/Flags.lean ====
section
/-! DEFINITION. The results and flags of R112 and R121: the exact natural or integer result first, then the narrowed value and the flag. -/

namespace Sys2Proof.Machine

/-- The value written to VF: 0x00 or 0x01 (R112). -/
def flagByte (f : Bool) : Byte := if f then 1 else 0

/-- a + b, with carry out (R107, R112). -/
def addCarry (a b : Byte) : Byte × Bool :=
  let sum := a.toNat + b.toNat
  (BitVec.ofNat 8 sum, decide (256 ≤ sum))

/-- a − b, with 1 for NO borrow (R108, R110, R112). -/
def subNoBorrow (a b : Byte) : Byte × Bool :=
  let diff : Int := (a.toNat : Int) - (b.toNat : Int)
  (BitVec.ofInt 8 diff, decide (0 ≤ diff))

/-- a div 2, with the bit shifted out, a mod 2 (R109, R112). -/
def shiftRightOut (a : Byte) : Byte × Bool := (BitVec.ofNat 8 (a.toNat / 2), decide (a.toNat % 2 = 1))

/-- (2 * a) mod 256, with the bit shifted out, a div 128 (R111, R112). -/
def shiftLeftOut (a : Byte) : Byte × Bool := (BitVec.ofNat 8 (2 * a.toNat), decide (a.toNat / 128 = 1))

/-- I + a modulo 65536, with whether the exact sum passed 0x0FFF (R121). -/
def addIndex (i : Word) (a : Byte) : Word × Bool :=
  let sum := i.toNat + a.toNat
  (BitVec.ofNat 16 sum, decide (0x0FFF < sum))

/-- The result to V[X], then the flag to VF, last (R100): with X = 15 the flag stays. -/
def State.setResultThenFlag (s : State) (x : Reg) (r : Byte × Bool) : State := (s.setV x r.1).setV regVF (flagByte r.2)

end Sys2Proof.Machine
end

