-- ==== Sys2Proof/Machine/Display.lean ====
section
/-! DEFINITION. The display instructions (`43_display.md`). -/

namespace Sys2Proof.Machine

/-- `00E0` (R143). -/
def execCls (s : State) : Host.Outcome State Fault Refusal := .next (fbClear s)

/-- The inner loop of R144 over the columns c listed: XOR one sprite byte into the row, stopping at the right edge; `hit` is sticky. -/
def drawColumns (byte : Byte) (row x0 : Nat) : List Nat → Bool → State → Except State (Bool × State)
  | [], hit, s => .ok (hit, s)
  | c :: cs, hit, s =>
    if 64 ≤ x0 + c then .ok (hit, s)
    else match fbXor s row (x0 + c) (byte.getLsbD (7 - c)) with
      | .ok (off, s') => drawColumns byte row x0 cs (hit || off) s'
      | .error e => .error e

/-- The outer loop of R144 over the sprite rows r listed: the bottom clip is tested before the row's byte is read (D17, log 15). -/
def drawRows (x0 y0 : Nat) : List Nat → Bool → State → Except State (Bool × State)
  | [], hit, s => .ok (hit, s)
  | r :: rs, hit, s =>
    if 32 ≤ y0 + r then .ok (hit, s)
    else match loadByte s (s.ea r) with
      | .ok byte =>
        match drawColumns byte (y0 + r) x0 (List.range 8) hit s with
        | .ok (hit', s') => drawRows x0 y0 rs hit' s'
        | .error e => .error e
      | .error e => .error e

/-- `DXYN` (R144): the start position wraps, the sprite is clipped (C8); VF is written last, always, also for N = 0 (D30, log 15). -/
def execDrw (x y : Reg) (n : Nibble) (s : State) : Host.Outcome State Fault Refusal :=
  match drawRows ((s.getV x).toNat % 64) ((s.getV y).toNat % 32) (List.range n.toNat) false s with
  | .ok (hit, s') => .next (s'.setV regVF (flagByte hit))
  | .error e => .next e

end Sys2Proof.Machine
end

