-- ==== Sys2Proof/Machine/IndexMemory.lean ====
section
/-! DEFINITION. The index register and memory transfers (`42_index_and_memory.md`). -/

namespace Sys2Proof.Machine

/-- `ANNN` (R120). -/
def execLdI (nnn : Addr12) (s : State) : Host.Outcome State Fault Refusal := .next (s.setI (zext16 nnn))

/-- `FX1E` (R121): VF is set to 1 when the exact sum passes 0x0FFF and is not written otherwise (D14, log 13). -/
def execAddI (x : Reg) (s : State) : Host.Outcome State Fault Refusal :=
  let r := addIndex s.i (s.getV x)
  .next ((s.setI r.1).setV regVF (if r.2 then flagByte true else s.getV regVF))

/-- `FX29` (R122): a value above 15 raises GLYPH_RANGE (D11, log 11). -/
def execLdFont (x : Reg) (s : State) : Host.Outcome State Fault Refusal :=
  if 15 < (s.getV x).toNat then .next (s.raise .glyphRange (s.getV x).toNat)
  else .next (s.setI (glyphAddress (s.getV x)))

/-- `FX33` (R123). -/
def execBcd (x : Reg) (s : State) : Host.Outcome State Fault Refusal :=
  finish (storeBytes s (s.ea 0) (decimalDigits (s.getV x)))

/-- `FX55` (R124): `I` advances only when no store faulted. -/
def execStRegs (x : Reg) (s : State) : Host.Outcome State Fault Refusal :=
  match storeBytes s (s.ea 0) (regBlock s x) with
  | .ok s' => .next (advanceIndex s' x)
  | .error e => .next e

/-- `FX65` (R125): `I` advances only when no load faulted. -/
def execLdRegs (x : Reg) (s : State) : Host.Outcome State Fault Refusal :=
  match loadRegs s (s.ea 0) 0 (x.toNat + 1) with
  | .ok s' => .next (advanceIndex s' x)
  | .error e => .next e

end Sys2Proof.Machine
end

