-- ==== Sys2Proof/Machine/KeypadTimers.lean ====
section
/-! DEFINITION. Keypad, timer and random-number instructions (`44_keypad_timers_random.md`). -/

namespace Sys2Proof.Machine

/-- `CXNN` (R152). -/
def execRnd (x : Reg) (nn : Byte) (s : State) : Host.Outcome State Fault Refusal := .next (s.setV x (rand8 s &&& nn))

/-- `EX9E` (R153): a value above 15 raises KEY_RANGE (D12, log 11). -/
def execSkp (x : Reg) (s : State) : Host.Outcome State Fault Refusal :=
  if 15 < (s.getV x).toNat then .next (s.raise .keyRange (s.getV x).toNat)
  else .next (s.skipIf (keyHeld s (s.getV x).toNat))

/-- `EXA1` (R154): a value above 15 raises KEY_RANGE (D12, log 11). -/
def execSknp (x : Reg) (s : State) : Host.Outcome State Fault Refusal :=
  if 15 < (s.getV x).toNat then .next (s.raise .keyRange (s.getV x).toNat)
  else .next (s.skipIf (!keyHeld s (s.getV x).toNat))

/-- `FX07` (R155). -/
def execLdVxDt (x : Reg) (s : State) : Host.Outcome State Fault Refusal := .next (s.setV x s.dt)

/-- `FX0A` (R156): with no key held, `pc` goes back to this instruction and nothing else changes. -/
def execLdVxKey (x : Reg) (s : State) : Host.Outcome State Fault Refusal :=
  .next (match leastHeldKey s with
    | some k => s.setV x (BitVec.ofNat 8 k)
    | none => s.setPc (s.pc - 2))

/-- `FX15` (R157). -/
def execLdDtVx (x : Reg) (s : State) : Host.Outcome State Fault Refusal := .next (s.setDt (s.getV x))

/-- `FX18` (R158). -/
def execLdStVx (x : Reg) (s : State) : Host.Outcome State Fault Refusal := .next (s.setSt (s.getV x))

end Sys2Proof.Machine
end

