-- ==== Sys2Proof/Machine/LoadAlu.lean ====
section
/-! DEFINITION. Register load, arithmetic and logic (`41_load_and_alu.md`). Sources are read, the result is written to V[X], a flag to VF last (R100). -/

namespace Sys2Proof.Machine

/-- `6XNN` (R101). -/
def execLdImm (x : Reg) (nn : Byte) (s : State) : Host.Outcome State Fault Refusal := .next (s.setV x nn)

/-- `7XNN` (R102): no flag. -/
def execAddImm (x : Reg) (nn : Byte) (s : State) : Host.Outcome State Fault Refusal := .next (s.setV x (addCarry (s.getV x) nn).1)

/-- `8XY0` (R103). -/
def execLdReg (x y : Reg) (s : State) : Host.Outcome State Fault Refusal := .next (s.setV x (s.getV y))

/-- `8XY1` (R104): VF is not written (D15, log 13). -/
def execOrReg (x y : Reg) (s : State) : Host.Outcome State Fault Refusal := .next (s.setV x (s.getV x ||| s.getV y))

/-- `8XY2` (R105): VF is not written (D15, log 13). -/
def execAndReg (x y : Reg) (s : State) : Host.Outcome State Fault Refusal := .next (s.setV x (s.getV x &&& s.getV y))

/-- `8XY3` (R106): VF is not written (D15, log 13). -/
def execXorReg (x y : Reg) (s : State) : Host.Outcome State Fault Refusal := .next (s.setV x (s.getV x ^^^ s.getV y))

/-- `8XY4` (R107). -/
def execAddReg (x y : Reg) (s : State) : Host.Outcome State Fault Refusal :=
  .next (s.setResultThenFlag x (addCarry (s.getV x) (s.getV y)))

/-- `8XY5` (R108). -/
def execSub (x y : Reg) (s : State) : Host.Outcome State Fault Refusal :=
  .next (s.setResultThenFlag x (subNoBorrow (s.getV x) (s.getV y)))

/-- `8XY6` (R109). -/
def execShr (x y : Reg) (s : State) : Host.Outcome State Fault Refusal :=
  .next (s.setResultThenFlag x (shiftRightOut (shiftSource s x y)))

/-- `8XY7` (R110). -/
def execSubn (x y : Reg) (s : State) : Host.Outcome State Fault Refusal :=
  .next (s.setResultThenFlag x (subNoBorrow (s.getV y) (s.getV x)))

/-- `8XYE` (R111). -/
def execShl (x y : Reg) (s : State) : Host.Outcome State Fault Refusal :=
  .next (s.setResultThenFlag x (shiftLeftOut (shiftSource s x y)))

end Sys2Proof.Machine
end

