-- ==== Sys2Proof/Machine/Unimplemented.lean ====
section
/-! DEFINITION. Unimplemented words (`45_unimplemented.md`). -/

namespace Sys2Proof.Machine

/-- A word outside the table (R170): one report (R171), no state changed; the `pc` advance of the fetch stands (D24, log 19). -/
def execUnimpl (w : Word) (s : State) : Host.Outcome State Fault Refusal := .next (s.emit (.report w))

end Sys2Proof.Machine
end

