-- ==== Sys2Proof/Machine/RunLoop.lean ====
section
/-! DEFINITION. The tick, the sound edge detector, the fetch and one iteration of the run loop (R60, R195, R199, R216). -/

namespace Sys2Proof.Machine

/-! ## Ticks (R195) -/

/-- One timer cell counted down, never below zero. -/
def countDown (b : Byte) : Byte := if 0 < b.toNat then b - 1 else 0

/-- One tick: both cells, as one action (D20, log 17). -/
def State.tick (s : State) : State := { s with dt := countDown s.dt, st := countDown s.st }

/-- One timer cell counted down by n ticks. -/
def countDownBy (b : Byte) : Nat → Byte
  | 0 => b
  | n + 1 => countDownBy (countDown b) n

/-- n ticks, one after another (R195); `ticks_succ` of `Laws/State.lean` says that each is a `tick`. -/
def State.ticks (s : State) (n : Nat) : State := { s with dt := countDownBy s.dt n, st := countDownBy s.st n }

/-! ## Sound edge detector (R199) -/

/-- The sample taken after a step that does not fault: an event exactly when the level changed. -/
def soundSample (s : State) : State :=
  let now := !(s.st == 0)
  { s with
    sounding := now
    events := if now == s.sounding then s.events else (if now then .playSound else .stopSound) :: s.events }

/-! ## Fetch (R60, R42) -/

/-- Lines 1, 2 and 4 of R60: the byte at `pc`, then the byte at `pc + 1`, high byte first; a fault here changes nothing else. -/
def fetch (s : State) : Except State Word :=
  match loadByte s s.pc.toNat with
  | .error e => .error e
  | .ok hi =>
    match loadByte s (s.pc.toNat + 1) with
    | .error e => .error e
    | .ok lo => .ok (wordOfBytes hi lo)

/-! ## One iteration of the run loop (R216) -/

/-- The turn just used is gone, and the next iteration begins. -/
def State.endTurn (s : State) : State := { s with turns := s.turns.tail, iter := s.iter + 1 }

/-- Line 2, the host's draw, which may clear DIRTY (R203), and the ticks that fall before the step's timer access (R197). -/
def State.drawPhase (s : State) : State :=
  State.ticks { s with events := .draw s.dirty :: s.events, dirty := s.dirty && !s.turn.dirtyClear } s.turn.ticksBefore

/-- Line 4: ticks, the sound sample (R199), and the ticks that fall after it (R197). -/
def State.soundPhase (s : State) : State := (soundSample (s.ticks s.turn.ticksAfter)).ticks s.turn.ticksLast

/-- What follows a step: nothing more when it faulted, for the run has ended (R180); else line 4 and the host's `step()` event of line 5
(D27, log 24), up to the host failure that ends the run there if there is one (R192, log 22). -/
def State.afterStep (s : State) : State :=
  if s.faulted then s
  else match s.turn.hostError with
    | .none => s.soundPhase.emit .hostStep
    | .beforeStep => s.soundPhase.emit .hostStep
    | .afterStep => (s.ticks s.turn.ticksAfter).raise .hostError 0
    | .afterSample => s.soundPhase.raise .hostError 0
    | .afterHostStep => (s.soundPhase.emit .hostStep).raise .hostError 0

/-- Line 1 with a stop request: the ticks that fall before the poll, while the run is live (R196, R197), and the normal end. -/
def State.endRun (s : State) : State := { (s.ticks s.turn.ticksBefore).endTurn with ended := true }

/-- One iteration: stop poll, draw, a host failure before the step if there is one (R192, log 22), the step, what follows it. -/
def iteration (s : State) : Host.Outcome State Fault Refusal :=
  if s.faulted then .fault (.halted s.cause s.info)
  else if s.ended then .fault .runEnded
  else if s.turn.stopReq then .next s.endRun
  else if s.turn.hostError = .beforeStep then .next ((s.drawPhase.raise .hostError 0).endTurn)
  else match fetch s.drawPhase with
    | .error e => .next e.endTurn
    | .ok w =>
      match exec (decode w) (s.drawPhase.setPc (s.drawPhase.pc + 2)) with
      | .next t => .next t.afterStep.endTurn
      | .fault r => .fault r
      | .refused r => .refused r

/-- The word stored where the next step fetches, high byte first (R42). -/
def State.placeWord (s : State) (op : Word) : State :=
  { s with mem := s.mem.writeBytes s.pc.toNat [op.extractLsb' 8 8, op.extractLsb' 0 8] }

/-- This iteration's turn with no stop request and no host failure, every other input as it was. -/
def State.letRun (s : State) : State :=
  { s with turns := { s.turn with stopReq := false, hostError := .none } :: s.turns.tail }

/-- For running a program on given inputs: the next n turns are quiet. -/
def State.withQuietTurns (s : State) (n : Nat) : State := { s with turns := List.replicate n HostTurn.quiet }

end Sys2Proof.Machine
end

