-- ==== Sys2Proof/Machine/Step.lean ====
section
/-! DEFINITION. The step of the host's interface: one iteration of the run loop (R216), and the placing of an instruction word. -/

namespace Sys2Proof.Machine

/-- One iteration of the run loop (R216), one instruction step (R60) in it. -/
def step (s : State) : Host.Outcome State Fault Refusal := iteration s

/-- `s` with the instruction word stored where `step` fetches, in an iteration that the host neither ends nor breaks (log 21). -/
def State.withFetchWord (s : State) (nbits w : Nat) : State := (s.placeWord (BitVec.ofNat 16 (w % 2 ^ nbits))).letRun

end Sys2Proof.Machine
end

