-- ==== Sys2Proof/Safety.lean ====
section
/-! DEFINITION. The terms in which claims speak of runs: running states, invariants (R33), what a program cannot observe (R32), the closed form of a sprite (R144). -/

namespace Sys2Proof.Machine

/-- A step may be taken: no fault and no normal end so far (R60, R216). -/
def State.running (s : State) : Prop := s.faulted = false ∧ s.ended = false

/-- The host lets this iteration come to its step: no stop request (R216 line 1), no failure before the step (R192). -/
def State.hostLetsRun (s : State) : Prop := s.turn.stopReq = false ∧ s.turn.hostError ≠ .beforeStep

/-- R33 (a), (b), (c): SP, `pc` and the entries held. -/
def State.pcAndStackInRange (s : State) : Prop :=
  s.sp ≤ 128 ∧ s.pc.toNat ≤ 0x10FE ∧ ∀ j, j < s.sp → 2 ≤ (s.entry j).toNat ∧ (s.entry j).toNat ≤ 0x1000

/-- The fault status of R28 and R181: CAUSE and INFO are 0 until FAULTED, CAUSE is a code that can be raised (R183), and a run ends in one way (R216). -/
def State.faultStatusCoherent (s : State) : Prop :=
  (s.faulted = false → s.cause = .none ∧ s.info = 0) ∧ (s.faulted = true → s.cause ≠ .none ∧ s.ended = false) ∧
    s.cause ≠ .regOob ∧ s.cause ≠ .fbOob

/-- The sound level the host was last told of, from the events newest first: silent at first, each `playSound` from silent, each `stopSound` from
sounding; `none` when two sound events of one kind follow each other (R199: "events alternate, the first being `play_sound`"). -/
def soundLevel : List OutEvent → Option Bool
  | [] => some false
  | .playSound :: es => if soundLevel es = some false then some true else none
  | .stopSound :: es => if soundLevel es = some true then some false else none
  | .draw _ :: es => soundLevel es
  | .report _ :: es => soundLevel es
  | .hostStep :: es => soundLevel es

/-- The sound events emitted alternate and end in the level SOUNDING holds (R26, R199). -/
def State.soundCoherent (s : State) : Prop := soundLevel s.events = some s.sounding

/-- The state with what no instruction can read blotted out: DIRTY, SOUNDING, ST and the events emitted (R23, R25, R26, R32). -/
def State.hide (s : State) : State := { s with dirty := false, sounding := false, st := 0, events := [] }

/-- The instructions that make a timer access (R197). -/
def accessesTimer : Instr → Bool
  | .ldVxDt _ => true
  | .ldDtVx _ => true
  | .ldStVx _ => true
  | _ => false

/-- The instructions whose behaviour a toggle selects (R27). -/
def readsToggle : Instr → Bool
  | .shr _ _ => true
  | .shl _ _ => true
  | .jpOff _ => true
  | .stRegs _ => true
  | .ldRegs _ => true
  | _ => false

/-- The registers an instruction can write: the V-register table of R12, its column of writes. -/
def writesV : Instr → Reg → Bool
  | .cls, _ | .ret, _ | .jp _, _ | .call _, _ | .ldI _, _ => false
  | .seImm _ _, _ | .sneImm _ _, _ | .seReg _ _, _ | .sneReg _ _, _ => false
  | .ldImm x _, r | .addImm x _, r | .ldReg x _, r => r == x
  | .orReg x _, r | .andReg x _, r | .xorReg x _, r => r == x
  | .addReg x _, r | .sub x _, r | .subn x _, r | .shr x _, r | .shl x _, r => r == x || r == regVF
  | .jpOff _, _ => false
  | .rnd x _, r => r == x
  | .drw _ _ _, r => r == regVF
  | .skp _, _ | .sknp _, _ => false
  | .ldVxDt x, r | .ldVxKey x, r => r == x
  | .ldDtVx _, _ | .ldStVx _, _ | .ldFont _, _ | .bcd _, _ => false
  | .addI _, r => r == regVF
  | .stRegs _, _ => false
  | .ldRegs x, r => decide (r.toNat ≤ x.toNat)
  | .unimpl _, _ => false

/-- The instructions that write `pc` beyond the advance of the fetch (R18). -/
def movesPc : Instr → Bool
  | .ret => true
  | .jp _ => true
  | .call _ => true
  | .seImm _ _ => true
  | .sneImm _ _ => true
  | .seReg _ _ => true
  | .sneReg _ _ => true
  | .jpOff _ => true
  | .skp _ => true
  | .sknp _ => true
  | .ldVxKey _ => true
  | _ => false

/-- The instructions that can raise a fault of their own (R182). -/
def canFault : Instr → Bool
  | .ret => true
  | .call _ => true
  | .drw _ _ _ => true
  | .skp _ => true
  | .sknp _ => true
  | .ldFont _ => true
  | .bcd _ => true
  | .stRegs _ => true
  | .ldRegs _ => true
  | _ => false

/-- The sprite of n rows at I placed with its top left cell at (y0, x0): its bit over the cell (row, col), most significant bit leftmost (R43, R144). -/
def spriteBit (s : State) (x0 y0 n row col : Nat) : Bool :=
  decide (y0 ≤ row ∧ row < y0 + n ∧ x0 ≤ col ∧ col < x0 + 8) && (s.mem.read (s.ea (row - y0))).getLsbD (7 - (col - x0))

/-- The start column and row of `DXYN` (R144). -/
def drawColumn (s : State) (x : Reg) : Nat := (s.getV x).toNat % 64

/-- The start row of `DXYN` (R144). -/
def drawRow (s : State) (y : Reg) : Nat := (s.getV y).toNat % 32

/-- Push the values listed, the first one first (R22). -/
def pushAll : State → List Word → Except State State
  | s, [] => .ok s
  | s, w :: ws =>
    match push s w with
    | .ok s' => pushAll s' ws
    | .error e => .error e

/-- Pop n times; the values in the order in which they come (R22). -/
def popTimes : State → Nat → Except State (List Word × State)
  | s, 0 => .ok ([], s)
  | s, n + 1 =>
    match pop s with
    | .ok (w, s') =>
      match popTimes s' n with
      | .ok (ws, s'') => .ok (w :: ws, s'')
      | .error e => .error e
    | .error e => .error e

end Sys2Proof.Machine
end

