-- ==== Sys2Proof/Certificates/Slice0/Obligations.lean ====
section
/-! DEFINITION. The statements about the model, from the spec's numbered rules. A frame is written `t = { s with f := t.f, … }`: every field of
the state that is not named is the one before, memory, stack and framebuffer among them. An encoding is written `decode w = i ↔ w = …`: that word
and no other. -/

open Sys2Proof Sys2Proof.Machine

/-! ## Encoding (`30_encoding.md`) -/

/-- Words written out from R66 and the decode table of `95_test_vectors.md` 2.1. -/
def Obligations.SampleWordsDecode : Prop :=
  ∀ p ∈ ([(0x00E0, .cls), (0x00EE, .ret), (0x1234, .jp 0x234), (0xABCD, .ldI 0xBCD), (0x6A7F, .ldImm 0xA 0x7F),
      (0x8AF0, .ldReg 0xA 0xF), (0x8AF8, .unimpl 0x8AF8), (0x812E, .shl 0x1 0x2), (0x812F, .unimpl 0x812F),
      (0xB2F0, .jpOff 0x2F0), (0xC30F, .rnd 0x3 0x0F), (0xD012, .drw 0x0 0x1 0x2), (0xE5A1, .sknp 0x5), (0xE5A0, .unimpl 0xE5A0),
      (0xF265, .ldRegs 0x2), (0xF266, .unimpl 0xF266), (0x5121, .unimpl 0x5121), (0x0000, .unimpl 0x0000),
      (0xFFFF, .unimpl 0xFFFF)] : List (Word × Instr)),
    decode p.1 = p.2

/-- Decode after encode, every operand at every value: no bit of an encoding is dropped. -/
def Obligations.DecodeAfterEncode : Prop := ∀ i : Instr, i.wf = true → decode (encode i) = i

/-- Encode after decode: every one of the 65536 words has one meaning, and it is well formed. -/
def Obligations.EncodeAfterDecode : Prop := ∀ w : Word, encode (decode w) = w ∧ (decode w).wf = true

/-- R64 over the rows of R66, with R170's class table for the words no row matches. -/
def Obligations.WordSelectsItsRow : Prop :=
  ∀ w : Word,
    (∀ r ∈ opcodeRows, r.selects w = true → decode w = r.build w) ∧
    (∀ r ∈ opcodeRows, ∀ r' ∈ opcodeRows, r.selects w = true → r'.selects w = true → r.mnemonic = r'.mnemonic) ∧
    ((∀ r ∈ opcodeRows, r.selects w = false) → decode w = .unimpl w) ∧
    (unimplementedWord w = true ↔ ∀ r ∈ opcodeRows, r.selects w = false)

/-! ## The step and the run (`30_encoding.md` R60, `70_reset_and_hazards.md` R216) -/

/-- A step runs the decoded instruction, with `pc` moved past it (R60), between the draw and the sound sample (R216; logs 4, 8), in every
iteration that the host lets come to its step. That the byte at `pc` is the high half of the word is the spec's decision D1 (log 9), that an odd
`pc` fetches and executes is its decision D9 (log 10). -/
def Obligations.StepRunsTheDecodedInstruction : Prop :=
  ∀ (s : State) (i : Instr), s.running → s.hostLetsRun → s.pc.toNat ≤ 0x0FFE →
    decode (wordOfBytes (s.mem.read s.pc.toNat) (s.mem.read (s.pc.toNat + 1))) = i →
    step s = match exec i (s.drawPhase.setPc (s.pc + 2)) with
      | .next t => .next t.afterStep.endTurn
      | .fault r => .fault r
      | .refused r => .refused r

/-- What stands around the instruction in one iteration: the draw, the ticks, the sound sample, the host's `step()` event, and the host failure
that may end the run after the step (R192, R195, R197, R199, R203; logs 4, 8, 22, 24). -/
def Obligations.AroundTheInstruction : Prop :=
  ∀ s : State,
    ((s.drawPhase).dt.toNat = s.dt.toNat - s.turn.ticksBefore ∧ (s.drawPhase).st.toNat = s.st.toNat - s.turn.ticksBefore ∧
      (s.drawPhase).dirty = (s.dirty && !s.turn.dirtyClear) ∧ (s.drawPhase).events = .draw s.dirty :: s.events ∧
      s.drawPhase = { s with dt := s.drawPhase.dt, st := s.drawPhase.st, dirty := s.drawPhase.dirty, events := s.drawPhase.events }) ∧
    (s.faulted = true → s.afterStep = s) ∧
    (s.faulted = false → s.turn.hostError = .afterStep →
      (s.afterStep).dt.toNat = s.dt.toNat - s.turn.ticksAfter ∧ (s.afterStep).st.toNat = s.st.toNat - s.turn.ticksAfter ∧
      (s.afterStep).faulted = true ∧ (s.afterStep).cause = .hostError ∧ (s.afterStep).info = 0 ∧
      s.afterStep = { s with dt := s.afterStep.dt, st := s.afterStep.st, faulted := s.afterStep.faulted, cause := s.afterStep.cause,
                             info := s.afterStep.info }) ∧
    (s.faulted = false → s.turn.hostError ≠ .afterStep →
      (s.afterStep).dt.toNat = s.dt.toNat - s.turn.ticksAfter - s.turn.ticksLast ∧
      (s.afterStep).st.toNat = s.st.toNat - s.turn.ticksAfter - s.turn.ticksLast ∧
      ((s.afterStep).sounding = true ↔ s.turn.ticksAfter < s.st.toNat) ∧
      (s.afterStep).events =
        (if s.turn.hostError = .afterSample then [] else [.hostStep]) ++
          (if (s.afterStep).sounding = s.sounding then [] else if (s.afterStep).sounding then [.playSound] else [.stopSound]) ++ s.events ∧
      (s.turn.hostError = .afterSample ∨ s.turn.hostError = .afterHostStep →
        (s.afterStep).faulted = true ∧ (s.afterStep).cause = .hostError ∧ (s.afterStep).info = 0) ∧
      (s.turn.hostError = .none ∨ s.turn.hostError = .beforeStep →
        (s.afterStep).faulted = false ∧ (s.afterStep).cause = s.cause ∧ (s.afterStep).info = s.info) ∧
      s.afterStep = { s with dt := s.afterStep.dt, st := s.afterStep.st, sounding := s.afterStep.sounding, events := s.afterStep.events,
                             faulted := s.afterStep.faulted, cause := s.afterStep.cause, info := s.afterStep.info })

/-- A fetch with `pc` at 4095 or above faults, reporting the lower address outside memory, and advances nothing (R60, R33 (d), R182). What
the draw phase does before it is the model's turn and event log (logs 4, 8); that the odd `pc` 4095 faults for its second byte alone is the spec's
decision D9 (log 10), what a fault leaves its decision D18 (log 16). -/
def Obligations.FetchOutsideMemoryFaults : Prop :=
  ∀ s : State, s.running → s.hostLetsRun → 0x0FFF ≤ s.pc.toNat →
    ∃ t, step s = .next t ∧ t.faulted = true ∧ t.cause = .memOob ∧
      t.info.toNat = (if s.pc.toNat = 0x0FFF then 0x1000 else s.pc.toNat) ∧
      t = { s.drawPhase.endTurn with faulted := t.faulted, cause := t.cause, info := t.info }

/-- No step is taken after a fault, nor after the normal end of the run (R60, R180, R216; logs 1, 2). -/
def Obligations.StoppedMachineTakesNoStep : Prop :=
  ∀ s : State, (s.faulted = true → step s = .fault (.halted s.cause s.info)) ∧
    (s.faulted = false → s.ended = true → step s = .fault .runEnded)

/-- Line 1 of the iteration: a stop request ends the run before the draw and the step; up to the poll the run is live, so the ticks that fall
before it still count down (R216, R196, R197; logs 2, 4). That no `stop_sound` is emitted there, so that the events and SOUNDING stay as they
were, is the spec's decision D32 (log 24). -/
def Obligations.StopRequestEndsTheRun : Prop :=
  ∀ s : State, s.running → s.turn.stopReq = true →
    ∃ t, step s = .next t ∧ t.ended = true ∧ t.dt.toNat = s.dt.toNat - s.turn.ticksBefore ∧ t.st.toNat = s.st.toNat - s.turn.ticksBefore ∧
      t = { s with ended := t.ended, dt := t.dt, st := t.st, turns := s.turns.tail, iter := s.iter + 1 }

/-- A host failure raises HOST_ERROR with information 0 (R192): before the step no instruction runs; after an instruction that did not
fault, its effect stands, and the run ends before the next draw. The points at which it lands are the model's choice (log 22), the turns and the
event log too (logs 4, 8); the byte order of the fetch is the spec's decision D1 (log 9), the fetch at an odd `pc` its decision D9 (log 10). -/
def Obligations.HostErrorEndsTheRun : Prop :=
  ∀ s : State, s.running → s.turn.stopReq = false →
    (s.turn.hostError = .beforeStep → ∃ t, step s = .next t ∧ t.faulted = true ∧ t.cause = .hostError ∧ t.info = 0 ∧
      t = { s.drawPhase.endTurn with faulted := t.faulted, cause := t.cause, info := t.info }) ∧
    (s.turn.hostError = .afterStep ∨ s.turn.hostError = .afterSample ∨ s.turn.hostError = .afterHostStep → s.pc.toNat ≤ 0x0FFE →
      ∀ u : State, exec (decode (wordOfBytes (s.mem.read s.pc.toNat) (s.mem.read (s.pc.toNat + 1)))) (s.drawPhase.setPc (s.pc + 2)) = .next u →
        u.faulted = false → ∃ t, step s = .next t ∧ t.faulted = true ∧ t.cause = .hostError ∧ t.info = 0 ∧
          (∃ es, t.events = es ++ u.events ∧ ∀ d, OutEvent.draw d ∉ es) ∧
          t = { u.endTurn with dt := t.dt, st := t.st, sounding := t.sounding, events := t.events, faulted := t.faulted, cause := t.cause,
                               info := t.info })

/-- A word placed where the next step fetches is the instruction that the next step runs, on the memory that holds it: the
model's interface (log 21), with its turns (log 4). That the high half lies at `pc` is the spec's decision D1 (log 9), the fetch at an odd `pc` its
decision D9 (log 10). -/
def Obligations.PlacedWordIsRunNext : Prop :=
  ∀ (s : State) (w : Nat), s.running → s.pc.toNat ≤ 0x0FFE → w < 65536 →
    (∃ i, decodeTableWord 16 w = some i ∧
      step (s.withFetchWord 16 w) = match exec i ((s.withFetchWord 16 w).drawPhase.setPc (s.pc + 2)) with
        | .next t => .next t.afterStep.endTurn
        | .fault r => .fault r
        | .refused r => .refused r) ∧
    (∀ a, a ≠ s.pc.toNat → a ≠ s.pc.toNat + 1 → (s.withFetchWord 16 w).mem.read a = s.mem.read a) ∧
    s.withFetchWord 16 w = { s with mem := (s.withFetchWord 16 w).mem, turns := (s.withFetchWord 16 w).turns }

/-- A byte stored is what the next fetch of its address sees (R53). Which of the two bytes is the high half of the word is the spec's decision D1
(log 9), the fetch at an odd `pc` its decision D9 (log 10). -/
def Obligations.StoreIsSeenByTheNextFetch : Prop :=
  ∀ (s : State) (b : Byte), s.pc.toNat ≤ 0x0FFE →
    (∃ t, storeByte s s.pc.toNat b = .ok t ∧ fetch t = .ok (b ++ s.mem.read (s.pc.toNat + 1))) ∧
    (∃ t, storeByte s (s.pc.toNat + 1) b = .ok t ∧ fetch t = .ok (s.mem.read s.pc.toNat ++ b))

/-! ## Reset and load (`70_reset_and_hazards.md`) -/

/-- The state after reset (R210); the values other than memory and SP are the spec's decisions D3 to D8, D18, D21 (logs 5, 6), the font bytes
general knowledge (log 7), the last four fields the model's own (logs 2, 3, 8). -/
def Obligations.ResetState : Prop :=
  (∀ d j, d < 16 → j < 5 → State.reset.mem.read (0x050 + 5 * d + j) = (fontGlyphs.getD d []).getD j 0) ∧
  (∀ a, a < 0x050 ∨ 0x0A0 ≤ a → State.reset.mem.read a = 0) ∧
  (∀ x, State.reset.getV x = 0) ∧ State.reset.i = 0 ∧ State.reset.pc = 0x0200 ∧ State.reset.sp = 0 ∧
  (∀ j, State.reset.entry j = 0) ∧ (∀ r c, State.reset.fb.get r c = false) ∧ State.reset.dirty = false ∧
  State.reset.dt = 0 ∧ State.reset.st = 0 ∧ State.reset.sounding = false ∧ State.reset.faulted = false ∧
  State.reset.cause.code = 0 ∧ State.reset.info = 0 ∧ State.reset.toggles = ⟨false, false, false⟩ ∧
  State.reset.ended = false ∧ State.reset.events = [] ∧ State.reset.turns = [] ∧ State.reset.iter = 0

/-- Reset meets every invariant that a step keeps; the reset values are those of `ResetState` (logs 2, 5, 6, 7, 8). -/
def Obligations.ResetMeetsTheInvariants : Prop :=
  State.reset.mem.wf = true ∧ State.reset.pcAndStackInRange ∧ State.reset.faultStatusCoherent ∧ State.reset.soundCoherent

/-- Reset with other parameters (R210, R27, R6): the toggles and FONT_DATA given, the rest as `State.reset`. -/
def Obligations.ResetWithParameters : Prop :=
  ∀ (g : Toggles) (font : Vector Byte 80),
    (∀ j (h : j < 80), (State.resetWith g font).mem.read (0x050 + j) = font[j]) ∧
    (∀ a, a < 0x050 ∨ 0x0A0 ≤ a → (State.resetWith g font).mem.read a = 0) ∧
    (State.resetWith g font).mem.wf = true ∧ (State.resetWith g font).toggles = g ∧
    State.resetWith g font = { State.reset with toggles := (State.resetWith g font).toggles, mem := (State.resetWith g font).mem }

/-- Program load (R214, R191): verbatim at 0x200, nothing else; refused above 3584 bytes. That the empty image is accepted is the spec's decision
D28 (log 21). -/
def Obligations.ProgramLoad : Prop :=
  ∀ (image : List Byte) (s : State),
    (image.length ≤ 3584 → ∃ t, loadProgram image s = .ok t ∧
      (∀ k, k < image.length → t.mem.read (0x200 + k) = image.getD k 0) ∧
      (∀ a, a < 0x200 ∨ 0x200 + image.length ≤ a → t.mem.read a = s.mem.read a) ∧ t = { s with mem := t.mem }) ∧
    (3584 < image.length → loadProgram image s = .error .imageTooLong)

/-! ## Memory (`20_memory.md`) -/

/-- `MemRead` and `MemWrite` (R40, R41): the bounds fault, and every address read after a write. -/
def Obligations.ByteReadAfterWrite : Prop :=
  ∀ (s : State) (a : Nat) (b : Byte),
    (a < 4096 → loadByte s a = .ok (s.mem.read a) ∧
      ∃ t, storeByte s a b = .ok t ∧ loadByte t a = .ok b ∧ (∀ c, c ≠ a → t.mem.read c = s.mem.read c) ∧ t = { s with mem := t.mem }) ∧
    (4096 ≤ a → ∃ t, loadByte s a = .error t ∧ storeByte s a b = .error t ∧ t.faulted = true ∧ t.cause = .memOob ∧
      t.info.toNat = a % 65536 ∧ t = { s with faulted := t.faulted, cause := t.cause, info := t.info })

/-- Two canonical memories that read the same at the 4096 addresses are equal. -/
def Obligations.CanonicalMemoryIsItsBytes : Prop :=
  ∀ m m' : Memory, m.wf = true → m'.wf = true → (∀ a, a < 4096 → m.read a = m'.read a) → m = m'

/-- Every step keeps memory canonical. -/
def Obligations.StepKeepsMemoryCanonical : Prop :=
  ∀ s t : State, s.mem.wf = true → step s = .next t → t.mem.wf = true

/-! ## Call stack (`10_state.md` R19 to R22) -/

/-- `Push` and `Pop` (R20, R21). -/
def Obligations.PushAndPop : Prop :=
  ∀ (s : State) (w : Word), s.sp ≤ 128 →
    (s.sp = 128 → ∃ t, push s w = .error t ∧ t.faulted = true ∧ t.cause = .stackOverflow ∧ t.info = w ∧
      t = { s with faulted := t.faulted, cause := t.cause, info := t.info }) ∧
    (s.sp ≠ 128 → ∃ t, push s w = .ok t ∧ t.sp = s.sp + 1 ∧ t.entry s.sp = w ∧ (∀ j, j ≠ s.sp → t.entry j = s.entry j) ∧
      t = { s with stack := t.stack, sp := t.sp }) ∧
    (s.sp = 0 → ∃ t, pop s = .error t ∧ t.faulted = true ∧ t.cause = .stackUnderflow ∧ t.info = 0 ∧
      t = { s with faulted := t.faulted, cause := t.cause, info := t.info }) ∧
    (s.sp ≠ 0 → ∃ t, pop s = .ok (s.entry (s.sp - 1), t) ∧ t.sp = s.sp - 1 ∧ t = { s with sp := t.sp })

/-- R22: values pushed come back in reverse, SP where it started, the entries below it untouched. -/
def Obligations.StackIsLastInFirstOut : Prop :=
  ∀ (ws : List Word) (s : State), s.sp + ws.length ≤ 128 →
    ∃ t u, pushAll s ws = .ok t ∧ popTimes t ws.length = .ok (ws.reverse, u) ∧ u.sp = s.sp ∧
      (∀ j, j < s.sp → u.entry j = s.entry j) ∧ u = { s with stack := u.stack }

/-- A return after a call restores the post-fetch `pc` that the call pushed (R81, R83). -/
def Obligations.ReturnAfterCallRestoresPc : Prop :=
  ∀ (nnn : Addr12) (s : State), s.sp < 128 →
    ∃ t, exec (.call nnn) s = .next t ∧ ∀ u : State, u.stack = t.stack → u.sp = t.sp →
      ∃ v, exec .ret u = .next v ∧ v.pc = s.pc ∧ v.sp = s.sp ∧ v = { u with pc := v.pc, sp := v.sp }

/-! ## Control transfer (`40_control_flow.md`) -/

/-- R82. -/
def Obligations.JumpSetsPc : Prop :=
  ∀ (nnn : Addr12) (s : State), (∀ w, decode w = .jp nnn ↔ w = 0x1#4 ++ nnn) ∧
    ∃ t, exec (.jp nnn) s = .next t ∧ t.pc.toNat = nnn.toNat ∧ t = { s with pc := t.pc }

/-- R83: both outcomes. -/
def Obligations.CallPushesAndJumps : Prop :=
  ∀ (nnn : Addr12) (s : State), s.sp ≤ 128 → (∀ w, decode w = .call nnn ↔ w = 0x2#4 ++ nnn) ∧
    (s.sp ≠ 128 → ∃ t, exec (.call nnn) s = .next t ∧ t.pc.toNat = nnn.toNat ∧ t.sp = s.sp + 1 ∧ t.entry s.sp = s.pc ∧
      (∀ j, j ≠ s.sp → t.entry j = s.entry j) ∧ t = { s with pc := t.pc, sp := t.sp, stack := t.stack }) ∧
    (s.sp = 128 → ∃ t, exec (.call nnn) s = .next t ∧ t.faulted = true ∧ t.cause = .stackOverflow ∧ t.info = s.pc ∧
      t = { s with faulted := t.faulted, cause := t.cause, info := t.info })

/-- R81: both outcomes. -/
def Obligations.ReturnPopsPc : Prop :=
  ∀ s : State, s.sp ≤ 128 → (∀ w, decode w = .ret ↔ w = 0x00EE) ∧
    (s.sp ≠ 0 → ∃ t, exec .ret s = .next t ∧ t.pc = s.entry (s.sp - 1) ∧ t.sp = s.sp - 1 ∧ t = { s with pc := t.pc, sp := t.sp }) ∧
    (s.sp = 0 → ∃ t, exec .ret s = .next t ∧ t.faulted = true ∧ t.cause = .stackUnderflow ∧ t.info = 0 ∧
      t = { s with faulted := t.faulted, cause := t.cause, info := t.info })

/-- R84 and R85. -/
def Obligations.SkipsOnImmediate : Prop :=
  ∀ (x : Reg) (nn : Byte) (s : State),
    (∀ w, decode w = .seImm x nn ↔ w = 0x3#4 ++ x ++ nn) ∧ (∀ w, decode w = .sneImm x nn ↔ w = 0x4#4 ++ x ++ nn) ∧
    (∃ t, exec (.seImm x nn) s = .next t ∧ t.pc = (if s.getV x = nn then s.pc + 2 else s.pc) ∧ t = { s with pc := t.pc }) ∧
    (∃ t, exec (.sneImm x nn) s = .next t ∧ t.pc = (if s.getV x = nn then s.pc else s.pc + 2) ∧ t = { s with pc := t.pc })

/-- R86 and R87; a word of class 5 or 9 with N other than 0 is unimplemented and never skips. -/
def Obligations.SkipsOnRegister : Prop :=
  ∀ (x y : Reg) (s : State),
    (∀ w, decode w = .seReg x y ↔ w = 0x5#4 ++ x ++ y ++ 0x0#4) ∧ (∀ w, decode w = .sneReg x y ↔ w = 0x9#4 ++ x ++ y ++ 0x0#4) ∧
    (∀ n : Nibble, n ≠ 0x0#4 →
      decode (0x5#4 ++ x ++ y ++ n) = .unimpl (0x5#4 ++ x ++ y ++ n) ∧ decode (0x9#4 ++ x ++ y ++ n) = .unimpl (0x9#4 ++ x ++ y ++ n) ∧
      (∃ t, exec (decode (0x5#4 ++ x ++ y ++ n)) s = .next t ∧ t.pc = s.pc) ∧
      (∃ t, exec (decode (0x9#4 ++ x ++ y ++ n)) s = .next t ∧ t.pc = s.pc)) ∧
    (∃ t, exec (.seReg x y) s = .next t ∧ t.pc = (if s.getV x = s.getV y then s.pc + 2 else s.pc) ∧ t = { s with pc := t.pc }) ∧
    (∃ t, exec (.sneReg x y) s = .next t ∧ t.pc = (if s.getV x = s.getV y then s.pc else s.pc + 2) ∧ t = { s with pc := t.pc })

/-- R88; that the sum is not reduced to 12 bits is the spec's decision D23 (log 18). -/
def Obligations.JumpOffsetAddsRegister : Prop :=
  ∀ (nnn : Addr12) (s : State), (∀ w, decode w = .jpOff nnn ↔ w = 0xB#4 ++ nnn) ∧
    ∃ t, exec (.jpOff nnn) s = .next t ∧
      t.pc.toNat = nnn.toNat + (if s.toggles.jumpLegacy then s.getV 0 else s.getV (nnn.extractLsb' 8 4)).toNat ∧
      t = { s with pc := t.pc }

/-! ## Load and arithmetic (`41_load_and_alu.md`) -/

/-- R101, R102 and R103. -/
def Obligations.LoadsAndAddImmediate : Prop :=
  ∀ (x y : Reg) (nn : Byte) (s : State),
    (∀ w, decode w = .ldImm x nn ↔ w = 0x6#4 ++ x ++ nn) ∧ (∀ w, decode w = .addImm x nn ↔ w = 0x7#4 ++ x ++ nn) ∧
    (∀ w, decode w = .ldReg x y ↔ w = 0x8#4 ++ x ++ y ++ 0x0#4) ∧
    (∃ t, exec (.ldImm x nn) s = .next t ∧ t.getV x = nn ∧ (∀ r, r ≠ x → t.getV r = s.getV r) ∧ t = { s with v := t.v }) ∧
    (∃ t, exec (.addImm x nn) s = .next t ∧ (t.getV x).toNat = ((s.getV x).toNat + nn.toNat) % 256 ∧
      (∀ r, r ≠ x → t.getV r = s.getV r) ∧ t = { s with v := t.v }) ∧
    (∃ t, exec (.ldReg x y) s = .next t ∧ t.getV x = s.getV y ∧ (∀ r, r ≠ x → t.getV r = s.getV r) ∧ t = { s with v := t.v })

/-- R104, R105 and R106; that VF is not written is the spec's decision D15 (log 13). -/
def Obligations.LogicLeavesVF : Prop :=
  ∀ (x y : Reg) (s : State),
    (∀ w, decode w = .orReg x y ↔ w = 0x8#4 ++ x ++ y ++ 0x1#4) ∧ (∀ w, decode w = .andReg x y ↔ w = 0x8#4 ++ x ++ y ++ 0x2#4) ∧
    (∀ w, decode w = .xorReg x y ↔ w = 0x8#4 ++ x ++ y ++ 0x3#4) ∧
    (∃ t, exec (.orReg x y) s = .next t ∧ (∀ k, (t.getV x).getLsbD k = ((s.getV x).getLsbD k || (s.getV y).getLsbD k)) ∧
      (∀ r, r ≠ x → t.getV r = s.getV r) ∧ t = { s with v := t.v }) ∧
    (∃ t, exec (.andReg x y) s = .next t ∧ (∀ k, (t.getV x).getLsbD k = ((s.getV x).getLsbD k && (s.getV y).getLsbD k)) ∧
      (∀ r, r ≠ x → t.getV r = s.getV r) ∧ t = { s with v := t.v }) ∧
    (∃ t, exec (.xorReg x y) s = .next t ∧ (∀ k, (t.getV x).getLsbD k = ((s.getV x).getLsbD k ^^ (s.getV y).getLsbD k)) ∧
      (∀ r, r ≠ x → t.getV r = s.getV r) ∧ t = { s with v := t.v })

/-- R107, with R100's order: VF ends as the carry, also when it is the destination. -/
def Obligations.AddSetsCarry : Prop :=
  ∀ (x y : Reg) (s : State), (∀ w, decode w = .addReg x y ↔ w = 0x8#4 ++ x ++ y ++ 0x4#4) ∧
    ∃ t, exec (.addReg x y) s = .next t ∧
      t.getV regVF = (if 256 ≤ (s.getV x).toNat + (s.getV y).toNat then 1 else 0) ∧
      (x ≠ regVF → (t.getV x).toNat = ((s.getV x).toNat + (s.getV y).toNat) % 256) ∧
      (∀ r, r ≠ x → r ≠ regVF → t.getV r = s.getV r) ∧ t = { s with v := t.v }

/-- R108 and R110: VF is 1 when there is NO borrow. -/
def Obligations.SubtractSetsNoBorrow : Prop :=
  ∀ (x y : Reg) (s : State), (∀ w, decode w = .sub x y ↔ w = 0x8#4 ++ x ++ y ++ 0x5#4) ∧ (∀ w, decode w = .subn x y ↔ w = 0x8#4 ++ x ++ y ++ 0x7#4) ∧
    (∃ t, exec (.sub x y) s = .next t ∧
      t.getV regVF = (if (s.getV y).toNat ≤ (s.getV x).toNat then 1 else 0) ∧
      (x ≠ regVF → (t.getV x).toNat =
        if (s.getV y).toNat ≤ (s.getV x).toNat then (s.getV x).toNat - (s.getV y).toNat else (s.getV x).toNat + 256 - (s.getV y).toNat) ∧
      (∀ r, r ≠ x → r ≠ regVF → t.getV r = s.getV r) ∧ t = { s with v := t.v }) ∧
    (∃ t, exec (.subn x y) s = .next t ∧
      t.getV regVF = (if (s.getV x).toNat ≤ (s.getV y).toNat then 1 else 0) ∧
      (x ≠ regVF → (t.getV x).toNat =
        if (s.getV x).toNat ≤ (s.getV y).toNat then (s.getV y).toNat - (s.getV x).toNat else (s.getV y).toNat + 256 - (s.getV x).toNat) ∧
      (∀ r, r ≠ x → r ≠ regVF → t.getV r = s.getV r) ∧ t = { s with v := t.v })

/-- R109 and R111, under both settings of SHIFT_LEGACY. -/
def Obligations.ShiftsReportTheBitShiftedOut : Prop :=
  ∀ (x y : Reg) (a : Byte) (s : State), a = (if s.toggles.shiftLegacy then s.getV y else s.getV x) →
    (∀ w, decode w = .shr x y ↔ w = 0x8#4 ++ x ++ y ++ 0x6#4) ∧ (∀ w, decode w = .shl x y ↔ w = 0x8#4 ++ x ++ y ++ 0xE#4) ∧
    (∃ t, exec (.shr x y) s = .next t ∧ (t.getV regVF).toNat = a.toNat % 2 ∧ (x ≠ regVF → (t.getV x).toNat = a.toNat / 2) ∧
      (∀ r, r ≠ x → r ≠ regVF → t.getV r = s.getV r) ∧ t = { s with v := t.v }) ∧
    (∃ t, exec (.shl x y) s = .next t ∧ (t.getV regVF).toNat = a.toNat / 128 ∧ (x ≠ regVF → (t.getV x).toNat = 2 * a.toNat % 256) ∧
      (∀ r, r ≠ x → r ≠ regVF → t.getV r = s.getV r) ∧ t = { s with v := t.v })

/-! ## Index and memory (`42_index_and_memory.md`) -/

/-- R120. -/
def Obligations.LoadIndex : Prop :=
  ∀ (nnn : Addr12) (s : State), (∀ w, decode w = .ldI nnn ↔ w = 0xA#4 ++ nnn) ∧
    ∃ t, exec (.ldI nnn) s = .next t ∧ t.i.toNat = nnn.toNat ∧ t = { s with i := t.i }

/-- R121; that VF keeps its value when the sum stays within 0x0FFF is the spec's decision D14 (log 13). -/
def Obligations.AddIndexFlagsPast12Bits : Prop :=
  ∀ (x : Reg) (s : State), (∀ w, decode w = .addI x ↔ w = 0xF#4 ++ x ++ 0x1E#8) ∧
    ∃ t, exec (.addI x) s = .next t ∧ t.i.toNat = (s.i.toNat + (s.getV x).toNat) % 65536 ∧
      t.getV regVF = (if 0x0FFF < s.i.toNat + (s.getV x).toNat then 1 else s.getV regVF) ∧
      (∀ r, r ≠ regVF → t.getV r = s.getV r) ∧ t = { s with i := t.i, v := t.v }

/-- R122; the glyph layout is the spec's decision D10 (log 28), the fault above 15 its decision D11 (log 11). -/
def Obligations.FontAddressOfDigit : Prop :=
  ∀ (x : Reg) (s : State), (∀ w, decode w = .ldFont x ↔ w = 0xF#4 ++ x ++ 0x29#8) ∧
    ((s.getV x).toNat ≤ 15 → ∃ t, exec (.ldFont x) s = .next t ∧ t.i.toNat = 0x50 + 5 * (s.getV x).toNat ∧ t = { s with i := t.i }) ∧
    (15 < (s.getV x).toNat → ∃ t, exec (.ldFont x) s = .next t ∧ t.faulted = true ∧ t.cause = .glyphRange ∧
      t.info.toNat = (s.getV x).toNat ∧ t = { s with faulted := t.faulted, cause := t.cause, info := t.info })

/-- R123: three digits at I, I + 1, I + 2; the first of them outside memory faults, the digits before it stored. -/
def Obligations.BcdStoresDigits : Prop :=
  ∀ (x : Reg) (s : State), (∀ w, decode w = .bcd x ↔ w = 0xF#4 ++ x ++ 0x33#8) ∧
    (s.ea 2 < 4096 → ∃ t, exec (.bcd x) s = .next t ∧
      (t.mem.read (s.ea 0)).toNat = (s.getV x).toNat / 100 ∧ (t.mem.read (s.ea 1)).toNat = (s.getV x).toNat / 10 % 10 ∧
      (t.mem.read (s.ea 2)).toNat = (s.getV x).toNat % 10 ∧
      (∀ a, a < s.ea 0 ∨ s.ea 2 < a → t.mem.read a = s.mem.read a) ∧ t = { s with mem := t.mem }) ∧
    (∀ k, k ≤ 2 → 4096 ≤ s.ea k → (∀ j, j < k → s.ea j < 4096) → ∃ t, exec (.bcd x) s = .next t ∧
      (∀ j, j < k → (t.mem.read (s.ea j)).toNat = if j = 0 then (s.getV x).toNat / 100 else (s.getV x).toNat / 10 % 10) ∧
      (∀ a, (∀ j, j < k → a ≠ s.ea j) → t.mem.read a = s.mem.read a) ∧
      t.faulted = true ∧ t.cause = .memOob ∧ t.info.toNat = s.ea k % 65536 ∧
      t = { s with mem := t.mem, faulted := t.faulted, cause := t.cause, info := t.info })

/-- R124: V0 to VX at I to I + X and the optional advance of I; the first address outside memory faults, the stores before it done, I not advanced. -/
def Obligations.StoreRegisters : Prop :=
  ∀ (x : Reg) (s : State), (∀ w, decode w = .stRegs x ↔ w = 0xF#4 ++ x ++ 0x55#8) ∧
    (s.ea x.toNat < 4096 → ∃ t, exec (.stRegs x) s = .next t ∧
      (∀ r : Reg, r.toNat ≤ x.toNat → t.mem.read (s.ea r.toNat) = s.getV r) ∧
      (∀ a, a < s.ea 0 ∨ s.ea x.toNat < a → t.mem.read a = s.mem.read a) ∧
      t.i.toNat = (if s.toggles.indexAdvance then s.i.toNat + x.toNat + 1 else s.i.toNat) ∧ t = { s with mem := t.mem, i := t.i }) ∧
    (∀ k, k ≤ x.toNat → 4096 ≤ s.ea k → (∀ j, j < k → s.ea j < 4096) → ∃ t, exec (.stRegs x) s = .next t ∧
      (∀ r : Reg, r.toNat < k → t.mem.read (s.ea r.toNat) = s.getV r) ∧
      (∀ a, (∀ j, j < k → a ≠ s.ea j) → t.mem.read a = s.mem.read a) ∧
      t.faulted = true ∧ t.cause = .memOob ∧ t.info.toNat = s.ea k % 65536 ∧
      t = { s with mem := t.mem, faulted := t.faulted, cause := t.cause, info := t.info })

/-- R125: V0 to VX from I to I + X and the optional advance of I; the first address outside memory faults, the loads before it done, I not advanced. -/
def Obligations.LoadRegisters : Prop :=
  ∀ (x : Reg) (s : State), (∀ w, decode w = .ldRegs x ↔ w = 0xF#4 ++ x ++ 0x65#8) ∧
    (s.ea x.toNat < 4096 → ∃ t, exec (.ldRegs x) s = .next t ∧
      (∀ r : Reg, t.getV r = if r.toNat ≤ x.toNat then s.mem.read (s.ea r.toNat) else s.getV r) ∧
      t.i.toNat = (if s.toggles.indexAdvance then s.i.toNat + x.toNat + 1 else s.i.toNat) ∧ t = { s with v := t.v, i := t.i }) ∧
    (∀ k, k ≤ x.toNat → 4096 ≤ s.ea k → (∀ j, j < k → s.ea j < 4096) → ∃ t, exec (.ldRegs x) s = .next t ∧
      (∀ r : Reg, t.getV r = if r.toNat < k then s.mem.read (s.ea r.toNat) else s.getV r) ∧
      t.faulted = true ∧ t.cause = .memOob ∧ t.info.toNat = s.ea k % 65536 ∧
      t = { s with v := t.v, faulted := t.faulted, cause := t.cause, info := t.info })

/-- The round trip of R125: a load from the address stored to restores V0 to VX, whatever was done to other state in between. -/
def Obligations.StoreThenLoadRestoresRegisters : Prop :=
  ∀ (x : Reg) (s : State), s.ea x.toNat < 4096 →
    ∃ t, exec (.stRegs x) s = .next t ∧ ∀ u : State, u.mem = t.mem → u.i = s.i →
      ∃ w, exec (.ldRegs x) u = .next w ∧ ∀ r : Reg, r.toNat ≤ x.toNat → w.getV r = s.getV r

/-! ## Display (`43_display.md`) -/

/-- R143 and R142; that DIRTY is set also where no cell changed is the spec's decision D16 (log 14). -/
def Obligations.ClearBlanksTheScreen : Prop :=
  ∀ s : State, (∀ w, decode w = .cls ↔ w = 0x00E0) ∧
    ∃ t, exec .cls s = .next t ∧ (∀ r c, t.fb.get r c = false) ∧ t.dirty = true ∧ t = { s with fb := t.fb, dirty := t.dirty }

/-- R141 and R145 (a): XOR with the same bit twice restores the cell, and of the two calls with a 1 exactly one reports a collision; that DIRTY
is set by every call, also with a bit of 0, which changes no cell, is the spec's decision D16 (log 14). -/
def Obligations.XorIsItsOwnInverse : Prop :=
  ∀ (s : State) (row col : Nat) (b : Bool),
    (row < 32 → col < 64 → ∃ off t off' u, fbXor s row col b = .ok (off, t) ∧ fbXor t row col b = .ok (off', u) ∧
      off = (s.fb.get row col && b) ∧ off' = (!s.fb.get row col && b) ∧ t.fb.get row col = (s.fb.get row col ^^ b) ∧
      (∀ r c, r < 32 → c < 64 → (r ≠ row ∨ c ≠ col) → t.fb.get r c = s.fb.get r c) ∧ t.dirty = true ∧
      t = { s with fb := t.fb, dirty := t.dirty } ∧ u.fb = s.fb ∧ u.dirty = true ∧
      u = { s with dirty := u.dirty }) ∧
    (32 ≤ row ∨ 64 ≤ col → ∃ t, fbXor s row col b = .error t ∧ t.faulted = true ∧ t.cause = .fbOob ∧
      t.info.toNat = (row * 256 + col) % 65536 ∧ t = { s with faulted := t.faulted, cause := t.cause, info := t.info })

/-- R144 in closed form: every cell is XORed with the sprite bit over it, VF is 1 exactly when a set cell met a set bit, and DIRTY is set when
N ≥ 1 (D16, D17, D30: logs 14, 15). -/
def Obligations.DrawXorsTheSprite : Prop :=
  ∀ (x y : Reg) (n : Nibble) (s : State), (∀ w, decode w = .drw x y n ↔ w = 0xD#4 ++ x ++ y ++ n) ∧
    ((∀ r, r < n.toNat → drawRow s y + r < 32 → s.ea r < 4096) → ∃ t, exec (.drw x y n) s = .next t ∧
      (∀ row col, row < 32 → col < 64 → t.fb.get row col =
        (s.fb.get row col ^^ spriteBit s (drawColumn s x) (drawRow s y) n.toNat row col)) ∧
      (t.getV regVF = 1 ∨ t.getV regVF = 0) ∧
      (t.getV regVF = 1 ↔ ∃ row col, row < 32 ∧ col < 64 ∧ s.fb.get row col = true ∧
        spriteBit s (drawColumn s x) (drawRow s y) n.toNat row col = true) ∧
      t.dirty = (s.dirty || decide (0 < n.toNat)) ∧ (∀ r, r ≠ regVF → t.getV r = s.getV r) ∧
      t = { s with fb := t.fb, dirty := t.dirty, v := t.v })

/-- R144 and R184: the first row inside the bottom clip whose byte lies outside memory faults; the rows before it are drawn, VF is not written.
That only rows inside the clip are read is the spec's decision D17 (log 15), what a fault leaves its decision D18 (log 16), DIRTY its decision D16
(log 14). -/
def Obligations.DrawFaultsOutsideMemory : Prop :=
  ∀ (x y : Reg) (n : Nibble) (s : State) (k : Nat), k < n.toNat → drawRow s y + k < 32 → 4096 ≤ s.ea k → (∀ j, j < k → s.ea j < 4096) →
    ∃ t, exec (.drw x y n) s = .next t ∧
      (∀ row col, row < 32 → col < 64 → t.fb.get row col =
        (s.fb.get row col ^^ spriteBit s (drawColumn s x) (drawRow s y) k row col)) ∧
      t.dirty = (s.dirty || decide (0 < k)) ∧ t.faulted = true ∧ t.cause = .memOob ∧ t.info.toNat = s.ea k % 65536 ∧
      t = { s with fb := t.fb, dirty := t.dirty, faulted := t.faulted, cause := t.cause, info := t.info }

/-- R144's property: the same sprite drawn twice at the same place leaves the screen as it was, and the second draw reports a collision when
the sprite has a set bit over a cell that was clear. That both draws complete though clipped rows lie beyond 0xFFF, the premise asking for the
bytes of the rows inside the clip alone, is the spec's decision D17 (log 15). -/
def Obligations.DrawTwiceRestoresTheScreen : Prop :=
  ∀ (x y : Reg) (n : Nibble) (s : State), (∀ r, r < n.toNat → drawRow s y + r < 32 → s.ea r < 4096) →
    ∃ t, exec (.drw x y n) s = .next t ∧
      ∀ u : State, u.fb = t.fb → u.mem = s.mem → u.i = s.i → u.getV x = s.getV x → u.getV y = s.getV y →
        ∃ w, exec (.drw x y n) u = .next w ∧ w.fb = s.fb ∧
          ((∃ row col, row < 32 ∧ col < 64 ∧ s.fb.get row col = false ∧
            spriteBit s (drawColumn s x) (drawRow s y) n.toNat row col = true) → w.getV regVF = 1)

/-! ## Keypad, timers, random (`44_keypad_timers_random.md`) -/

/-- R152, for every byte on input `rand` (a free value, log 3). -/
def Obligations.RandomIsMasked : Prop :=
  ∀ (x : Reg) (nn : Byte) (s : State), (∀ w, decode w = .rnd x nn ↔ w = 0xC#4 ++ x ++ nn) ∧
    ∃ t, exec (.rnd x nn) s = .next t ∧ (∀ k, (t.getV x).getLsbD k = (s.turn.rand.getLsbD k && nn.getLsbD k)) ∧
      (∀ r, r ≠ x → t.getV r = s.getV r) ∧ t = { s with v := t.v }

/-- R153 and R154, for every key level (a free value, log 3); the fault above 15 is the spec's decision D12 (log 11). -/
def Obligations.SkipsOnKey : Prop :=
  ∀ (x : Reg) (s : State), (∀ w, decode w = .skp x ↔ w = 0xE#4 ++ x ++ 0x9E#8) ∧ (∀ w, decode w = .sknp x ↔ w = 0xE#4 ++ x ++ 0xA1#8) ∧
    ((s.getV x).toNat ≤ 15 →
      (∃ t, exec (.skp x) s = .next t ∧ t.pc = (if s.turn.keys.getLsbD (s.getV x).toNat then s.pc + 2 else s.pc) ∧ t = { s with pc := t.pc }) ∧
      (∃ t, exec (.sknp x) s = .next t ∧ t.pc = (if s.turn.keys.getLsbD (s.getV x).toNat then s.pc else s.pc + 2) ∧ t = { s with pc := t.pc })) ∧
    (15 < (s.getV x).toNat → ∃ t, exec (.skp x) s = .next t ∧ exec (.sknp x) s = .next t ∧ t.faulted = true ∧ t.cause = .keyRange ∧
      t.info.toNat = (s.getV x).toNat ∧ t = { s with faulted := t.faulted, cause := t.cause, info := t.info })

/-- R156, for every key level (a free value, log 3); that the least held key wins is the spec's decision D13 (log 12). -/
def Obligations.KeyWaitTakesLeastOrRepeats : Prop :=
  ∀ (x : Reg) (s : State), (∀ w, decode w = .ldVxKey x ↔ w = 0xF#4 ++ x ++ 0x0A#8) ∧
    (∀ k, k < 16 → s.turn.keys.getLsbD k = true → (∀ j, j < k → s.turn.keys.getLsbD j = false) →
      ∃ t, exec (.ldVxKey x) s = .next t ∧ (t.getV x).toNat = k ∧ (∀ r, r ≠ x → t.getV r = s.getV r) ∧ t = { s with v := t.v }) ∧
    (s.turn.keys = 0 → ∃ t, exec (.ldVxKey x) s = .next t ∧ t.pc + 2 = s.pc ∧ t = { s with pc := t.pc })

/-- R155, R157 and R158. -/
def Obligations.TimerTransfers : Prop :=
  ∀ (x : Reg) (s : State), (∀ w, decode w = .ldVxDt x ↔ w = 0xF#4 ++ x ++ 0x07#8) ∧ (∀ w, decode w = .ldDtVx x ↔ w = 0xF#4 ++ x ++ 0x15#8) ∧
    (∀ w, decode w = .ldStVx x ↔ w = 0xF#4 ++ x ++ 0x18#8) ∧
    (∃ t, exec (.ldVxDt x) s = .next t ∧ t.getV x = s.dt ∧ (∀ r, r ≠ x → t.getV r = s.getV r) ∧ t = { s with v := t.v }) ∧
    (∃ t, exec (.ldDtVx x) s = .next t ∧ t.dt = s.getV x ∧ t = { s with dt := t.dt }) ∧
    (∃ t, exec (.ldStVx x) s = .next t ∧ t.st = s.getV x ∧ t = { s with st := t.st })

/-! ## Unimplemented words (`45_unimplemented.md`) -/

/-- R170 and R171: one report, nothing else; that the `pc` advance stands is the spec's decision D24 (log 19), the event list the
model's own (log 8). -/
def Obligations.UnimplementedWordReports : Prop :=
  ∀ (w : Word) (s : State), (unimplementedWord w = true ↔ decode w = .unimpl w) ∧
    ∃ t, exec (.unimpl w) s = .next t ∧ t.events = .report w :: s.events ∧ t = { s with events := t.events }

/-! ## Ticks and sound (`60_exceptions.md`) -/

/-- R195: after k ticks each cell holds max(0, v − k), and a tick touches nothing else; that one tick counts both down is the spec's decision
D20 (log 17). -/
def Obligations.TicksCountDownToZero : Prop :=
  ∀ (s : State) (k : Nat),
    (s.ticks k).dt.toNat = s.dt.toNat - k ∧ (s.ticks k).st.toNat = s.st.toNat - k ∧ s.ticks (k + 1) = s.tick.ticks k ∧
      s.ticks k = { s with dt := (s.ticks k).dt, st := (s.ticks k).st }

/-- R197: an instruction that makes no timer access gives the same whether a tick falls before it or after it; that one tick
counts both timers down is the spec's decision D20 (log 17). -/
def Obligations.TickCommutesWithInstructions : Prop :=
  ∀ (i : Instr) (s : State), accessesTimer i = false → ∃ t, exec i s = .next t ∧ exec i s.tick = .next t.tick

/-- R199: the sample of the sound edge detector; the event list is the model's own (log 8). -/
def Obligations.SoundSampleReportsEdges : Prop :=
  ∀ s : State, ((soundSample s).sounding = true ↔ s.st ≠ 0) ∧
    ((s.st ≠ 0 ↔ s.sounding = true) → (soundSample s).events = s.events) ∧
    (s.st ≠ 0 → s.sounding = false → (soundSample s).events = .playSound :: s.events) ∧
    (s.st = 0 → s.sounding = true → (soundSample s).events = .stopSound :: s.events) ∧
    soundSample s = { s with sounding := (soundSample s).sounding, events := (soundSample s).events }

/-- R199: in every run the sound events alternate, and SOUNDING is the level last reported (R26). That the two still agree after a step in which
`play_sound` or `stop_sound` fails is the model's choice (log 22), the event list the model's own (log 8); that the end of the run emits no
`stop_sound` is the spec's decision D32 (log 24). -/
def Obligations.SoundEventsAlternate : Prop :=
  ∀ s t : State, s.soundCoherent → step s = .next t → t.soundCoherent

/-! ## The whole machine -/

/-- R33 (a), (b), (c): SP, `pc` and the return addresses held stay in range over every step. -/
def Obligations.StepKeepsPcAndStackInRange : Prop :=
  ∀ s t : State, s.pcAndStackInRange → step s = .next t → t.pcAndStackInRange

/-- R28, R181, R183: the fault status stays coherent over every step; REG_OOB and FB_OOB are never raised. The fault status is
the spec's decision D18 (log 6), the step that follows a fault and the normal end the model's (logs 1, 2). -/
def Obligations.StepKeepsFaultStatusCoherent : Prop :=
  ∀ s t : State, s.faultStatusCoherent → step s = .next t → t.faultStatusCoherent

/-- Every instruction answers a next state in every state, and raises only the faults R182 lists for it. The faults above 15 are the spec's decisions
D11 and D12 (log 11), that rows outside the clip raise none its decision D17 (log 15), the faults as next states the model's (log 1). -/
def Obligations.InstructionsRaiseOnlyTheirFaults : Prop :=
  ∀ (i : Instr) (s : State), ∃ t, exec i s = .next t ∧ (s.faulted = false → t.faulted = true →
    (i = .ret ∧ s.sp = 0 ∧ t.cause = .stackUnderflow) ∨
    (∃ nnn, i = .call nnn ∧ 128 ≤ s.sp ∧ t.cause = .stackOverflow) ∨
    (∃ x y n r, i = .drw x y n ∧ r < n.toNat ∧ drawRow s y + r < 32 ∧ 4096 ≤ s.ea r ∧ t.cause = .memOob) ∨
    (∃ x, (i = .skp x ∨ i = .sknp x) ∧ 15 < (s.getV x).toNat ∧ t.cause = .keyRange) ∨
    (∃ x, i = .ldFont x ∧ 15 < (s.getV x).toNat ∧ t.cause = .glyphRange) ∨
    (∃ x, i = .bcd x ∧ 4096 ≤ s.ea 2 ∧ t.cause = .memOob) ∨
    (∃ x, (i = .stRegs x ∨ i = .ldRegs x) ∧ 4096 ≤ s.ea x.toNat ∧ t.cause = .memOob))

/-- Which instructions can write which state (R12, R17, R18, R19, R23, R24, R45, R171, R182); the rest of the state no instruction writes. That
OR, AND and XOR do not write VF is the spec's decision D15 (log 13), the event list and the other fields of the model are its own (logs 2, 3, 8). -/
def Obligations.WritersOfEachState : Prop :=
  ∀ (i : Instr) (s t : State), exec i s = .next t →
    (∀ r, t.getV r ≠ s.getV r → writesV i r = true) ∧ (t.pc ≠ s.pc → movesPc i = true) ∧
    (t.faulted ≠ s.faulted ∨ t.cause ≠ s.cause ∨ t.info ≠ s.info → canFault i = true) ∧
    (t.mem ≠ s.mem → ∃ x, i = .bcd x ∨ i = .stRegs x) ∧
    (t.fb ≠ s.fb ∨ t.dirty ≠ s.dirty → i = .cls ∨ ∃ x y n, i = .drw x y n) ∧
    (t.stack ≠ s.stack → ∃ nnn, i = .call nnn) ∧
    (t.sp ≠ s.sp → i = .ret ∨ ∃ nnn, i = .call nnn) ∧
    (t.dt ≠ s.dt → ∃ x, i = .ldDtVx x) ∧ (t.st ≠ s.st → ∃ x, i = .ldStVx x) ∧
    (t.i ≠ s.i → (∃ nnn, i = .ldI nnn) ∨ ∃ x, i = .addI x ∨ i = .ldFont x ∨ (s.toggles.indexAdvance = true ∧ (i = .stRegs x ∨ i = .ldRegs x))) ∧
    (t.events ≠ s.events → ∃ w, i = .unimpl w) ∧
    t.sounding = s.sounding ∧ t.toggles = s.toggles ∧ t.ended = s.ended ∧ t.turns = s.turns ∧ t.iter = s.iter

/-- R32: what no instruction can read (DIRTY, SOUNDING, ST, the events emitted: log 8) has no influence on anything else. -/
def Obligations.HiddenStateIsNotRead : Prop :=
  ∀ (i : Instr) (s s' : State), s.hide = s'.hide →
    ∃ t t', exec i s = .next t ∧ exec i s' = .next t' ∧ t.hide = t'.hide

/-- R27 and R68: the toggles make no difference to any instruction but the five that R27 names. -/
def Obligations.TogglesAffectFiveInstructions : Prop :=
  ∀ (i : Instr) (s : State) (g : Toggles), readsToggle i = false →
    ∃ t, exec i s = .next t ∧ exec i { s with toggles := g } = .next { t with toggles := g }
end

