-- ==== Sys2Proof/Laws/Memory.lean ====
section
/-! SUPPORT. Memory and framebuffer: read after write, and that every write keeps the canonical form. -/

namespace Sys2Proof.Machine

/-! ## Reading what was written -/

theorem Memory.read_erase_same (m : Memory) (a : Nat) : (m.erase a).read a = unlistedByte a := by
  induction m with
  | nil => rfl
  | cons c m ih =>
    obtain ⟨a', b⟩ := c
    by_cases h : a' = a
    · simp [Memory.erase, h, ih]
    · simp [Memory.erase, h, Memory.read, Ne.symm h, ih]

theorem Memory.read_erase_ne (m : Memory) {a c : Nat} (h : c ≠ a) : (m.erase a).read c = m.read c := by
  induction m with
  | nil => rfl
  | cons d m ih =>
    obtain ⟨a', b⟩ := d
    by_cases ha : a' = a
    · have : c ≠ a' := by omega
      simp [Memory.erase, ha, ih, Memory.read, h]
    · by_cases hc : c = a'
      · subst hc
        simp [Memory.erase, ha, Memory.read]
      · simp [Memory.erase, ha, Memory.read, hc, ih]

theorem Memory.read_insert_same (m : Memory) (a : Nat) (b : Byte) (h : m.erase a = m) : (m.insert a b).read a = b := by
  induction m with
  | nil => simp [Memory.insert, Memory.read]
  | cons d m ih =>
    obtain ⟨a', b'⟩ := d
    by_cases ha : a' = a
    · have hlen : ∀ (l : Memory), (l.erase a).length ≤ l.length := by
        intro l
        induction l with
        | nil => simp [Memory.erase]
        | cons e l ihl =>
          obtain ⟨e1, e2⟩ := e
          by_cases he : e1 = a
          · simp only [Memory.erase, he, if_true, List.length_cons]; omega
          · simp only [Memory.erase, he, if_false, List.length_cons]; omega
      have h2 := congrArg List.length h
      have h3 := hlen m
      simp only [Memory.erase, ha, if_true, List.length_cons] at h2
      omega
    · simp only [Memory.erase, ha, if_false, List.cons.injEq, true_and] at h
      by_cases hlt : a < a'
      · simp [Memory.insert, hlt, Memory.read]
      · simp [Memory.insert, hlt, Memory.read, Ne.symm ha, ih h]

theorem Memory.read_insert_ne (m : Memory) {a c : Nat} (b : Byte) (h : c ≠ a) : (m.insert a b).read c = m.read c := by
  induction m with
  | nil => simp [Memory.insert, Memory.read, h]
  | cons d m ih =>
    obtain ⟨a', b'⟩ := d
    by_cases hlt : a < a'
    · simp [Memory.insert, hlt, Memory.read, h]
    · simp [Memory.insert, hlt, Memory.read, ih]

theorem Memory.erase_erase (m : Memory) (a : Nat) : (m.erase a).erase a = m.erase a := by
  induction m with
  | nil => rfl
  | cons d m ih =>
    obtain ⟨a', b⟩ := d
    by_cases h : a' = a
    · simp [Memory.erase, h, ih]
    · simp [Memory.erase, h, ih]

/-- A write inside memory is read back. -/
theorem Memory.read_write_same (m : Memory) {a : Nat} (b : Byte) (h : a < 4096) : (m.write a b).read a = b := by
  have hn : ¬ 4096 ≤ a := by omega
  by_cases hb : b = unlistedByte a
  · simp [Memory.write, hn, hb, Memory.read_erase_same]
  · simp [Memory.write, hn, hb, Memory.read_insert_same _ _ _ (Memory.erase_erase m a)]

/-- A write leaves every other address as it was. -/
theorem Memory.read_write_ne (m : Memory) {a c : Nat} (b : Byte) (h : c ≠ a) : (m.write a b).read c = m.read c := by
  unfold Memory.write
  split
  · rfl
  · split
    · exact Memory.read_erase_ne m h
    · rw [Memory.read_insert_ne _ _ h, Memory.read_erase_ne m h]

theorem Memory.read_write (m : Memory) (a c : Nat) (b : Byte) (h : a < 4096) :
    (m.write a b).read c = if c = a then b else m.read c := by
  by_cases hc : c = a
  · simp [hc, Memory.read_write_same m b h]
  · simp [hc, Memory.read_write_ne m b hc]

/-- Writing bytes: inside the range written the byte written, elsewhere as before. -/
theorem Memory.read_writeBytes (bs : List Byte) (m : Memory) (a c : Nat) (h : a + bs.length ≤ 4096) :
    (m.writeBytes a bs).read c = if a ≤ c ∧ c < a + bs.length then bs.getD (c - a) 0 else m.read c := by
  induction bs generalizing m a with
  | nil =>
    have : ¬ (a ≤ c ∧ c < a + ([] : List Byte).length) := by simp only [List.length_nil]; omega
    rw [if_neg this, Memory.writeBytes]
  | cons b bs ih =>
    simp only [List.length_cons] at h
    rw [Memory.writeBytes, ih _ _ (by omega)]
    by_cases h1 : c = a
    · subst h1
      have : ¬ (c + 1 ≤ c ∧ c < c + 1 + bs.length) := by omega
      simp [Memory.read_write_same m b (by omega : c < 4096)]
    · by_cases h2 : a + 1 ≤ c ∧ c < a + 1 + bs.length
      · have h3 : a ≤ c ∧ c < a + (b :: bs).length := by simp only [List.length_cons]; omega
        rw [if_pos h2, if_pos h3]
        obtain ⟨k, hk⟩ : ∃ k, c - a = k + 1 := ⟨c - a - 1, by omega⟩
        rw [hk, List.getD_cons_succ, show c - (a + 1) = k by omega]
      · have h3 : ¬ (a ≤ c ∧ c < a + (b :: bs).length) := by simp only [List.length_cons]; omega
        rw [if_neg h2, if_neg h3, Memory.read_write_ne m b h1]

/-- The same, from the bounds of the single bytes. -/
theorem Memory.read_writeBytes_of_lt (bs : List Byte) (m : Memory) (a c : Nat) (h : ∀ k, k < bs.length → a + k < 4096) :
    (m.writeBytes a bs).read c = if a ≤ c ∧ c < a + bs.length then bs.getD (c - a) 0 else m.read c := by
  cases bs with
  | nil => rw [Memory.writeBytes, if_neg (by simp only [List.length_nil]; omega)]
  | cons b bs =>
    have := h bs.length (by simp)
    exact Memory.read_writeBytes _ m a c (by simp only [List.length_cons]; omega)

/-! ## The canonical form -/

theorem Memory.wfFrom_mono {lo lo' : Nat} (m : Memory) (h : Memory.wfFrom lo' m = true) (hle : lo ≤ lo') :
    Memory.wfFrom lo m = true := by
  cases m with
  | nil => rfl
  | cons d m =>
    obtain ⟨a, b⟩ := d
    simp only [Memory.wfFrom, Bool.and_eq_true, decide_eq_true_eq] at h ⊢
    exact ⟨⟨⟨by omega, h.1.1.2⟩, h.1.2⟩, h.2⟩

theorem Memory.wfFrom_erase (m : Memory) (lo a : Nat) (h : Memory.wfFrom lo m = true) :
    Memory.wfFrom lo (m.erase a) = true := by
  induction m generalizing lo with
  | nil => rfl
  | cons d m ih =>
    obtain ⟨a', b⟩ := d
    simp only [Memory.wfFrom, Bool.and_eq_true, decide_eq_true_eq] at h
    by_cases ha : a' = a
    · simp only [Memory.erase, ha, if_true]
      exact ih lo (Memory.wfFrom_mono m h.2 (by omega))
    · simp only [Memory.erase, ha, if_false, Memory.wfFrom, Bool.and_eq_true, decide_eq_true_eq]
      exact ⟨h.1, ih _ h.2⟩

theorem Memory.wfFrom_insert (m : Memory) (lo a : Nat) (b : Byte) (h : Memory.wfFrom lo m = true) (he : m.erase a = m)
    (hlo : lo ≤ a) (ha : a < 4096) (hb : b ≠ unlistedByte a) : Memory.wfFrom lo (m.insert a b) = true := by
  induction m generalizing lo with
  | nil => simp [Memory.insert, Memory.wfFrom, hlo, ha, hb]
  | cons d m ih =>
    obtain ⟨a', b'⟩ := d
    have hne : a' ≠ a := by
      intro e
      have h1 := Memory.read_erase_same ((a', b') :: m) a
      rw [he] at h1
      simp only [Memory.wfFrom, Bool.and_eq_true, decide_eq_true_eq, Bool.not_eq_true', beq_eq_false_iff_ne] at h
      subst e
      simp [Memory.read] at h1
      exact h.1.2 h1
    simp only [Memory.erase, hne, if_false, List.cons.injEq, true_and] at he
    simp only [Memory.wfFrom, Bool.and_eq_true, decide_eq_true_eq] at h
    by_cases hlt : a < a'
    · simp only [Memory.insert, hlt, if_true, Memory.wfFrom, Bool.and_eq_true, decide_eq_true_eq]
      refine ⟨⟨⟨hlo, ha⟩, by simp [hb]⟩, ⟨⟨⟨by omega, h.1.1.2⟩, h.1.2⟩, h.2⟩⟩
    · simp only [Memory.insert, hlt, if_false, Memory.wfFrom, Bool.and_eq_true, decide_eq_true_eq]
      exact ⟨h.1, ih _ h.2 he (by omega)⟩

/-- Every write keeps the canonical form. -/
theorem Memory.wf_write (m : Memory) (a : Nat) (b : Byte) (h : m.wf = true) : (m.write a b).wf = true := by
  unfold Memory.write
  split
  · exact h
  · split
    · exact Memory.wfFrom_erase m 0 a h
    · exact Memory.wfFrom_insert _ 0 a b (Memory.wfFrom_erase m 0 a h) (Memory.erase_erase m a) (by omega) (by omega) ‹_›

theorem Memory.wf_writeBytes (bs : List Byte) (m : Memory) (a : Nat) (h : m.wf = true) : (m.writeBytes a bs).wf = true := by
  induction bs generalizing m a with
  | nil => exact h
  | cons b bs ih => exact ih _ _ (Memory.wf_write m a b h)

/-- Reset memory is canonical. -/
theorem State.reset_mem_wf : State.reset.mem.wf = true := rfl

/-! ## The framebuffer -/

theorem Grid.get_put (g : Grid) (r c r' c' : Nat) (b : Bool) (hr : r < 32) (hc : c < 64) :
    (g.put r c b).get r' c' = if r' = r ∧ c' = c then b else g.get r' c' := by
  unfold Grid.put Grid.get
  rw [dif_pos (And.intro hr hc)]
  by_cases h : r' < 32 ∧ c' < 64
  · rw [dif_pos h, dif_pos h]
    by_cases h1 : r = r'
    · subst h1
      by_cases h2 : c = c'
      · subst h2; simp
      · simp [Vector.getElem_set_ne, h2, Ne.symm h2]
    · simp [Vector.getElem_set_ne, h1, Ne.symm h1]
  · rw [dif_neg h, dif_neg h]
    have : ¬ (r' = r ∧ c' = c) := by rintro ⟨rfl, rfl⟩; exact h ⟨hr, hc⟩
    simp [this]

@[simp] theorem Grid.get_blank (r c : Nat) : Grid.blank.get r c = false := by
  unfold Grid.get Grid.blank
  split <;> simp

/-- A grid is its cells. -/
theorem Grid.eq_of_get {g g' : Grid} (h : ∀ r c, r < 32 → c < 64 → g.get r c = g'.get r c) : g = g' := by
  apply Vector.ext
  intro r hr
  apply Vector.ext
  intro c hc
  have := h r c hr hc
  simpa [Grid.get, hr, hc] using this

end Sys2Proof.Machine
end

