-- ==== Sys2Proof/Laws/State.lean ====
section
/-! SUPPORT. What each update of the state leaves in each field: one lemma per field per update, each true by rfl. -/

namespace Sys2Proof.Machine

/-! ## Fields after an update -/

@[simp] theorem State.setV_v (s : State) (x : Reg) (b : Byte) : (s.setV x b).v = s.v.set x.toNat b x.isLt := rfl
@[simp] theorem State.setV_i (s : State) (x : Reg) (b : Byte) : (s.setV x b).i = s.i := rfl
@[simp] theorem State.setV_pc (s : State) (x : Reg) (b : Byte) : (s.setV x b).pc = s.pc := rfl
@[simp] theorem State.setV_stack (s : State) (x : Reg) (b : Byte) : (s.setV x b).stack = s.stack := rfl
@[simp] theorem State.setV_sp (s : State) (x : Reg) (b : Byte) : (s.setV x b).sp = s.sp := rfl
@[simp] theorem State.setV_mem (s : State) (x : Reg) (b : Byte) : (s.setV x b).mem = s.mem := rfl
@[simp] theorem State.setV_fb (s : State) (x : Reg) (b : Byte) : (s.setV x b).fb = s.fb := rfl
@[simp] theorem State.setV_dirty (s : State) (x : Reg) (b : Byte) : (s.setV x b).dirty = s.dirty := rfl
@[simp] theorem State.setV_dt (s : State) (x : Reg) (b : Byte) : (s.setV x b).dt = s.dt := rfl
@[simp] theorem State.setV_st (s : State) (x : Reg) (b : Byte) : (s.setV x b).st = s.st := rfl
@[simp] theorem State.setV_sounding (s : State) (x : Reg) (b : Byte) : (s.setV x b).sounding = s.sounding := rfl
@[simp] theorem State.setV_faulted (s : State) (x : Reg) (b : Byte) : (s.setV x b).faulted = s.faulted := rfl
@[simp] theorem State.setV_cause (s : State) (x : Reg) (b : Byte) : (s.setV x b).cause = s.cause := rfl
@[simp] theorem State.setV_info (s : State) (x : Reg) (b : Byte) : (s.setV x b).info = s.info := rfl
@[simp] theorem State.setV_toggles (s : State) (x : Reg) (b : Byte) : (s.setV x b).toggles = s.toggles := rfl
@[simp] theorem State.setV_ended (s : State) (x : Reg) (b : Byte) : (s.setV x b).ended = s.ended := rfl
@[simp] theorem State.setV_events (s : State) (x : Reg) (b : Byte) : (s.setV x b).events = s.events := rfl
@[simp] theorem State.setV_turns (s : State) (x : Reg) (b : Byte) : (s.setV x b).turns = s.turns := rfl
@[simp] theorem State.setV_iter (s : State) (x : Reg) (b : Byte) : (s.setV x b).iter = s.iter := rfl

@[simp] theorem State.setI_v (s : State) (w : Word) : (s.setI w).v = s.v := rfl
@[simp] theorem State.setI_i (s : State) (w : Word) : (s.setI w).i = w := rfl
@[simp] theorem State.setI_pc (s : State) (w : Word) : (s.setI w).pc = s.pc := rfl
@[simp] theorem State.setI_stack (s : State) (w : Word) : (s.setI w).stack = s.stack := rfl
@[simp] theorem State.setI_sp (s : State) (w : Word) : (s.setI w).sp = s.sp := rfl
@[simp] theorem State.setI_mem (s : State) (w : Word) : (s.setI w).mem = s.mem := rfl
@[simp] theorem State.setI_fb (s : State) (w : Word) : (s.setI w).fb = s.fb := rfl
@[simp] theorem State.setI_dirty (s : State) (w : Word) : (s.setI w).dirty = s.dirty := rfl
@[simp] theorem State.setI_dt (s : State) (w : Word) : (s.setI w).dt = s.dt := rfl
@[simp] theorem State.setI_st (s : State) (w : Word) : (s.setI w).st = s.st := rfl
@[simp] theorem State.setI_sounding (s : State) (w : Word) : (s.setI w).sounding = s.sounding := rfl
@[simp] theorem State.setI_faulted (s : State) (w : Word) : (s.setI w).faulted = s.faulted := rfl
@[simp] theorem State.setI_cause (s : State) (w : Word) : (s.setI w).cause = s.cause := rfl
@[simp] theorem State.setI_info (s : State) (w : Word) : (s.setI w).info = s.info := rfl
@[simp] theorem State.setI_toggles (s : State) (w : Word) : (s.setI w).toggles = s.toggles := rfl
@[simp] theorem State.setI_ended (s : State) (w : Word) : (s.setI w).ended = s.ended := rfl
@[simp] theorem State.setI_events (s : State) (w : Word) : (s.setI w).events = s.events := rfl
@[simp] theorem State.setI_turns (s : State) (w : Word) : (s.setI w).turns = s.turns := rfl
@[simp] theorem State.setI_iter (s : State) (w : Word) : (s.setI w).iter = s.iter := rfl

@[simp] theorem State.setPc_v (s : State) (w : Word) : (s.setPc w).v = s.v := rfl
@[simp] theorem State.setPc_i (s : State) (w : Word) : (s.setPc w).i = s.i := rfl
@[simp] theorem State.setPc_pc (s : State) (w : Word) : (s.setPc w).pc = w := rfl
@[simp] theorem State.setPc_stack (s : State) (w : Word) : (s.setPc w).stack = s.stack := rfl
@[simp] theorem State.setPc_sp (s : State) (w : Word) : (s.setPc w).sp = s.sp := rfl
@[simp] theorem State.setPc_mem (s : State) (w : Word) : (s.setPc w).mem = s.mem := rfl
@[simp] theorem State.setPc_fb (s : State) (w : Word) : (s.setPc w).fb = s.fb := rfl
@[simp] theorem State.setPc_dirty (s : State) (w : Word) : (s.setPc w).dirty = s.dirty := rfl
@[simp] theorem State.setPc_dt (s : State) (w : Word) : (s.setPc w).dt = s.dt := rfl
@[simp] theorem State.setPc_st (s : State) (w : Word) : (s.setPc w).st = s.st := rfl
@[simp] theorem State.setPc_sounding (s : State) (w : Word) : (s.setPc w).sounding = s.sounding := rfl
@[simp] theorem State.setPc_faulted (s : State) (w : Word) : (s.setPc w).faulted = s.faulted := rfl
@[simp] theorem State.setPc_cause (s : State) (w : Word) : (s.setPc w).cause = s.cause := rfl
@[simp] theorem State.setPc_info (s : State) (w : Word) : (s.setPc w).info = s.info := rfl
@[simp] theorem State.setPc_toggles (s : State) (w : Word) : (s.setPc w).toggles = s.toggles := rfl
@[simp] theorem State.setPc_ended (s : State) (w : Word) : (s.setPc w).ended = s.ended := rfl
@[simp] theorem State.setPc_events (s : State) (w : Word) : (s.setPc w).events = s.events := rfl
@[simp] theorem State.setPc_turns (s : State) (w : Word) : (s.setPc w).turns = s.turns := rfl
@[simp] theorem State.setPc_iter (s : State) (w : Word) : (s.setPc w).iter = s.iter := rfl

@[simp] theorem State.setDt_v (s : State) (b : Byte) : (s.setDt b).v = s.v := rfl
@[simp] theorem State.setDt_i (s : State) (b : Byte) : (s.setDt b).i = s.i := rfl
@[simp] theorem State.setDt_pc (s : State) (b : Byte) : (s.setDt b).pc = s.pc := rfl
@[simp] theorem State.setDt_stack (s : State) (b : Byte) : (s.setDt b).stack = s.stack := rfl
@[simp] theorem State.setDt_sp (s : State) (b : Byte) : (s.setDt b).sp = s.sp := rfl
@[simp] theorem State.setDt_mem (s : State) (b : Byte) : (s.setDt b).mem = s.mem := rfl
@[simp] theorem State.setDt_fb (s : State) (b : Byte) : (s.setDt b).fb = s.fb := rfl
@[simp] theorem State.setDt_dirty (s : State) (b : Byte) : (s.setDt b).dirty = s.dirty := rfl
@[simp] theorem State.setDt_dt (s : State) (b : Byte) : (s.setDt b).dt = b := rfl
@[simp] theorem State.setDt_st (s : State) (b : Byte) : (s.setDt b).st = s.st := rfl
@[simp] theorem State.setDt_sounding (s : State) (b : Byte) : (s.setDt b).sounding = s.sounding := rfl
@[simp] theorem State.setDt_faulted (s : State) (b : Byte) : (s.setDt b).faulted = s.faulted := rfl
@[simp] theorem State.setDt_cause (s : State) (b : Byte) : (s.setDt b).cause = s.cause := rfl
@[simp] theorem State.setDt_info (s : State) (b : Byte) : (s.setDt b).info = s.info := rfl
@[simp] theorem State.setDt_toggles (s : State) (b : Byte) : (s.setDt b).toggles = s.toggles := rfl
@[simp] theorem State.setDt_ended (s : State) (b : Byte) : (s.setDt b).ended = s.ended := rfl
@[simp] theorem State.setDt_events (s : State) (b : Byte) : (s.setDt b).events = s.events := rfl
@[simp] theorem State.setDt_turns (s : State) (b : Byte) : (s.setDt b).turns = s.turns := rfl
@[simp] theorem State.setDt_iter (s : State) (b : Byte) : (s.setDt b).iter = s.iter := rfl

@[simp] theorem State.setSt_v (s : State) (b : Byte) : (s.setSt b).v = s.v := rfl
@[simp] theorem State.setSt_i (s : State) (b : Byte) : (s.setSt b).i = s.i := rfl
@[simp] theorem State.setSt_pc (s : State) (b : Byte) : (s.setSt b).pc = s.pc := rfl
@[simp] theorem State.setSt_stack (s : State) (b : Byte) : (s.setSt b).stack = s.stack := rfl
@[simp] theorem State.setSt_sp (s : State) (b : Byte) : (s.setSt b).sp = s.sp := rfl
@[simp] theorem State.setSt_mem (s : State) (b : Byte) : (s.setSt b).mem = s.mem := rfl
@[simp] theorem State.setSt_fb (s : State) (b : Byte) : (s.setSt b).fb = s.fb := rfl
@[simp] theorem State.setSt_dirty (s : State) (b : Byte) : (s.setSt b).dirty = s.dirty := rfl
@[simp] theorem State.setSt_dt (s : State) (b : Byte) : (s.setSt b).dt = s.dt := rfl
@[simp] theorem State.setSt_st (s : State) (b : Byte) : (s.setSt b).st = b := rfl
@[simp] theorem State.setSt_sounding (s : State) (b : Byte) : (s.setSt b).sounding = s.sounding := rfl
@[simp] theorem State.setSt_faulted (s : State) (b : Byte) : (s.setSt b).faulted = s.faulted := rfl
@[simp] theorem State.setSt_cause (s : State) (b : Byte) : (s.setSt b).cause = s.cause := rfl
@[simp] theorem State.setSt_info (s : State) (b : Byte) : (s.setSt b).info = s.info := rfl
@[simp] theorem State.setSt_toggles (s : State) (b : Byte) : (s.setSt b).toggles = s.toggles := rfl
@[simp] theorem State.setSt_ended (s : State) (b : Byte) : (s.setSt b).ended = s.ended := rfl
@[simp] theorem State.setSt_events (s : State) (b : Byte) : (s.setSt b).events = s.events := rfl
@[simp] theorem State.setSt_turns (s : State) (b : Byte) : (s.setSt b).turns = s.turns := rfl
@[simp] theorem State.setSt_iter (s : State) (b : Byte) : (s.setSt b).iter = s.iter := rfl

@[simp] theorem State.skipIf_v (s : State) (c : Bool) : (s.skipIf c).v = s.v := rfl
@[simp] theorem State.skipIf_i (s : State) (c : Bool) : (s.skipIf c).i = s.i := rfl
@[simp] theorem State.skipIf_pc (s : State) (c : Bool) : (s.skipIf c).pc = if c then s.pc + 2 else s.pc := rfl
@[simp] theorem State.skipIf_stack (s : State) (c : Bool) : (s.skipIf c).stack = s.stack := rfl
@[simp] theorem State.skipIf_sp (s : State) (c : Bool) : (s.skipIf c).sp = s.sp := rfl
@[simp] theorem State.skipIf_mem (s : State) (c : Bool) : (s.skipIf c).mem = s.mem := rfl
@[simp] theorem State.skipIf_fb (s : State) (c : Bool) : (s.skipIf c).fb = s.fb := rfl
@[simp] theorem State.skipIf_dirty (s : State) (c : Bool) : (s.skipIf c).dirty = s.dirty := rfl
@[simp] theorem State.skipIf_dt (s : State) (c : Bool) : (s.skipIf c).dt = s.dt := rfl
@[simp] theorem State.skipIf_st (s : State) (c : Bool) : (s.skipIf c).st = s.st := rfl
@[simp] theorem State.skipIf_sounding (s : State) (c : Bool) : (s.skipIf c).sounding = s.sounding := rfl
@[simp] theorem State.skipIf_faulted (s : State) (c : Bool) : (s.skipIf c).faulted = s.faulted := rfl
@[simp] theorem State.skipIf_cause (s : State) (c : Bool) : (s.skipIf c).cause = s.cause := rfl
@[simp] theorem State.skipIf_info (s : State) (c : Bool) : (s.skipIf c).info = s.info := rfl
@[simp] theorem State.skipIf_toggles (s : State) (c : Bool) : (s.skipIf c).toggles = s.toggles := rfl
@[simp] theorem State.skipIf_ended (s : State) (c : Bool) : (s.skipIf c).ended = s.ended := rfl
@[simp] theorem State.skipIf_events (s : State) (c : Bool) : (s.skipIf c).events = s.events := rfl
@[simp] theorem State.skipIf_turns (s : State) (c : Bool) : (s.skipIf c).turns = s.turns := rfl
@[simp] theorem State.skipIf_iter (s : State) (c : Bool) : (s.skipIf c).iter = s.iter := rfl

@[simp] theorem State.raise_v (s : State) (c : Cause) (n : Nat) : (s.raise c n).v = s.v := rfl
@[simp] theorem State.raise_i (s : State) (c : Cause) (n : Nat) : (s.raise c n).i = s.i := rfl
@[simp] theorem State.raise_pc (s : State) (c : Cause) (n : Nat) : (s.raise c n).pc = s.pc := rfl
@[simp] theorem State.raise_stack (s : State) (c : Cause) (n : Nat) : (s.raise c n).stack = s.stack := rfl
@[simp] theorem State.raise_sp (s : State) (c : Cause) (n : Nat) : (s.raise c n).sp = s.sp := rfl
@[simp] theorem State.raise_mem (s : State) (c : Cause) (n : Nat) : (s.raise c n).mem = s.mem := rfl
@[simp] theorem State.raise_fb (s : State) (c : Cause) (n : Nat) : (s.raise c n).fb = s.fb := rfl
@[simp] theorem State.raise_dirty (s : State) (c : Cause) (n : Nat) : (s.raise c n).dirty = s.dirty := rfl
@[simp] theorem State.raise_dt (s : State) (c : Cause) (n : Nat) : (s.raise c n).dt = s.dt := rfl
@[simp] theorem State.raise_st (s : State) (c : Cause) (n : Nat) : (s.raise c n).st = s.st := rfl
@[simp] theorem State.raise_sounding (s : State) (c : Cause) (n : Nat) : (s.raise c n).sounding = s.sounding := rfl
@[simp] theorem State.raise_faulted (s : State) (c : Cause) (n : Nat) : (s.raise c n).faulted = true := rfl
@[simp] theorem State.raise_cause (s : State) (c : Cause) (n : Nat) : (s.raise c n).cause = c := rfl
@[simp] theorem State.raise_info (s : State) (c : Cause) (n : Nat) : (s.raise c n).info = BitVec.ofNat 16 n := rfl
@[simp] theorem State.raise_toggles (s : State) (c : Cause) (n : Nat) : (s.raise c n).toggles = s.toggles := rfl
@[simp] theorem State.raise_ended (s : State) (c : Cause) (n : Nat) : (s.raise c n).ended = s.ended := rfl
@[simp] theorem State.raise_events (s : State) (c : Cause) (n : Nat) : (s.raise c n).events = s.events := rfl
@[simp] theorem State.raise_turns (s : State) (c : Cause) (n : Nat) : (s.raise c n).turns = s.turns := rfl
@[simp] theorem State.raise_iter (s : State) (c : Cause) (n : Nat) : (s.raise c n).iter = s.iter := rfl

@[simp] theorem State.emit_v (s : State) (e : OutEvent) : (s.emit e).v = s.v := rfl
@[simp] theorem State.emit_i (s : State) (e : OutEvent) : (s.emit e).i = s.i := rfl
@[simp] theorem State.emit_pc (s : State) (e : OutEvent) : (s.emit e).pc = s.pc := rfl
@[simp] theorem State.emit_stack (s : State) (e : OutEvent) : (s.emit e).stack = s.stack := rfl
@[simp] theorem State.emit_sp (s : State) (e : OutEvent) : (s.emit e).sp = s.sp := rfl
@[simp] theorem State.emit_mem (s : State) (e : OutEvent) : (s.emit e).mem = s.mem := rfl
@[simp] theorem State.emit_fb (s : State) (e : OutEvent) : (s.emit e).fb = s.fb := rfl
@[simp] theorem State.emit_dirty (s : State) (e : OutEvent) : (s.emit e).dirty = s.dirty := rfl
@[simp] theorem State.emit_dt (s : State) (e : OutEvent) : (s.emit e).dt = s.dt := rfl
@[simp] theorem State.emit_st (s : State) (e : OutEvent) : (s.emit e).st = s.st := rfl
@[simp] theorem State.emit_sounding (s : State) (e : OutEvent) : (s.emit e).sounding = s.sounding := rfl
@[simp] theorem State.emit_faulted (s : State) (e : OutEvent) : (s.emit e).faulted = s.faulted := rfl
@[simp] theorem State.emit_cause (s : State) (e : OutEvent) : (s.emit e).cause = s.cause := rfl
@[simp] theorem State.emit_info (s : State) (e : OutEvent) : (s.emit e).info = s.info := rfl
@[simp] theorem State.emit_toggles (s : State) (e : OutEvent) : (s.emit e).toggles = s.toggles := rfl
@[simp] theorem State.emit_ended (s : State) (e : OutEvent) : (s.emit e).ended = s.ended := rfl
@[simp] theorem State.emit_events (s : State) (e : OutEvent) : (s.emit e).events = e :: s.events := rfl
@[simp] theorem State.emit_turns (s : State) (e : OutEvent) : (s.emit e).turns = s.turns := rfl
@[simp] theorem State.emit_iter (s : State) (e : OutEvent) : (s.emit e).iter = s.iter := rfl

@[simp] theorem State.tick_v (s : State) : (s.tick).v = s.v := rfl
@[simp] theorem State.tick_i (s : State) : (s.tick).i = s.i := rfl
@[simp] theorem State.tick_pc (s : State) : (s.tick).pc = s.pc := rfl
@[simp] theorem State.tick_stack (s : State) : (s.tick).stack = s.stack := rfl
@[simp] theorem State.tick_sp (s : State) : (s.tick).sp = s.sp := rfl
@[simp] theorem State.tick_mem (s : State) : (s.tick).mem = s.mem := rfl
@[simp] theorem State.tick_fb (s : State) : (s.tick).fb = s.fb := rfl
@[simp] theorem State.tick_dirty (s : State) : (s.tick).dirty = s.dirty := rfl
@[simp] theorem State.tick_dt (s : State) : (s.tick).dt = countDown s.dt := rfl
@[simp] theorem State.tick_st (s : State) : (s.tick).st = countDown s.st := rfl
@[simp] theorem State.tick_sounding (s : State) : (s.tick).sounding = s.sounding := rfl
@[simp] theorem State.tick_faulted (s : State) : (s.tick).faulted = s.faulted := rfl
@[simp] theorem State.tick_cause (s : State) : (s.tick).cause = s.cause := rfl
@[simp] theorem State.tick_info (s : State) : (s.tick).info = s.info := rfl
@[simp] theorem State.tick_toggles (s : State) : (s.tick).toggles = s.toggles := rfl
@[simp] theorem State.tick_ended (s : State) : (s.tick).ended = s.ended := rfl
@[simp] theorem State.tick_events (s : State) : (s.tick).events = s.events := rfl
@[simp] theorem State.tick_turns (s : State) : (s.tick).turns = s.turns := rfl
@[simp] theorem State.tick_iter (s : State) : (s.tick).iter = s.iter := rfl

@[simp] theorem State.ticks_v (s : State) (n : Nat) : (s.ticks n).v = s.v := rfl
@[simp] theorem State.ticks_i (s : State) (n : Nat) : (s.ticks n).i = s.i := rfl
@[simp] theorem State.ticks_pc (s : State) (n : Nat) : (s.ticks n).pc = s.pc := rfl
@[simp] theorem State.ticks_stack (s : State) (n : Nat) : (s.ticks n).stack = s.stack := rfl
@[simp] theorem State.ticks_sp (s : State) (n : Nat) : (s.ticks n).sp = s.sp := rfl
@[simp] theorem State.ticks_mem (s : State) (n : Nat) : (s.ticks n).mem = s.mem := rfl
@[simp] theorem State.ticks_fb (s : State) (n : Nat) : (s.ticks n).fb = s.fb := rfl
@[simp] theorem State.ticks_dirty (s : State) (n : Nat) : (s.ticks n).dirty = s.dirty := rfl
@[simp] theorem State.ticks_dt (s : State) (n : Nat) : (s.ticks n).dt = countDownBy s.dt n := rfl
@[simp] theorem State.ticks_st (s : State) (n : Nat) : (s.ticks n).st = countDownBy s.st n := rfl
@[simp] theorem State.ticks_sounding (s : State) (n : Nat) : (s.ticks n).sounding = s.sounding := rfl
@[simp] theorem State.ticks_faulted (s : State) (n : Nat) : (s.ticks n).faulted = s.faulted := rfl
@[simp] theorem State.ticks_cause (s : State) (n : Nat) : (s.ticks n).cause = s.cause := rfl
@[simp] theorem State.ticks_info (s : State) (n : Nat) : (s.ticks n).info = s.info := rfl
@[simp] theorem State.ticks_toggles (s : State) (n : Nat) : (s.ticks n).toggles = s.toggles := rfl
@[simp] theorem State.ticks_ended (s : State) (n : Nat) : (s.ticks n).ended = s.ended := rfl
@[simp] theorem State.ticks_events (s : State) (n : Nat) : (s.ticks n).events = s.events := rfl
@[simp] theorem State.ticks_turns (s : State) (n : Nat) : (s.ticks n).turns = s.turns := rfl
@[simp] theorem State.ticks_iter (s : State) (n : Nat) : (s.ticks n).iter = s.iter := rfl

@[simp] theorem State.endTurn_v (s : State) : (s.endTurn).v = s.v := rfl
@[simp] theorem State.endTurn_i (s : State) : (s.endTurn).i = s.i := rfl
@[simp] theorem State.endTurn_pc (s : State) : (s.endTurn).pc = s.pc := rfl
@[simp] theorem State.endTurn_stack (s : State) : (s.endTurn).stack = s.stack := rfl
@[simp] theorem State.endTurn_sp (s : State) : (s.endTurn).sp = s.sp := rfl
@[simp] theorem State.endTurn_mem (s : State) : (s.endTurn).mem = s.mem := rfl
@[simp] theorem State.endTurn_fb (s : State) : (s.endTurn).fb = s.fb := rfl
@[simp] theorem State.endTurn_dirty (s : State) : (s.endTurn).dirty = s.dirty := rfl
@[simp] theorem State.endTurn_dt (s : State) : (s.endTurn).dt = s.dt := rfl
@[simp] theorem State.endTurn_st (s : State) : (s.endTurn).st = s.st := rfl
@[simp] theorem State.endTurn_sounding (s : State) : (s.endTurn).sounding = s.sounding := rfl
@[simp] theorem State.endTurn_faulted (s : State) : (s.endTurn).faulted = s.faulted := rfl
@[simp] theorem State.endTurn_cause (s : State) : (s.endTurn).cause = s.cause := rfl
@[simp] theorem State.endTurn_info (s : State) : (s.endTurn).info = s.info := rfl
@[simp] theorem State.endTurn_toggles (s : State) : (s.endTurn).toggles = s.toggles := rfl
@[simp] theorem State.endTurn_ended (s : State) : (s.endTurn).ended = s.ended := rfl
@[simp] theorem State.endTurn_events (s : State) : (s.endTurn).events = s.events := rfl
@[simp] theorem State.endTurn_turns (s : State) : (s.endTurn).turns = s.turns.tail := rfl
@[simp] theorem State.endTurn_iter (s : State) : (s.endTurn).iter = s.iter + 1 := rfl

@[simp] theorem State.drawPhase_v (s : State) : (s.drawPhase).v = s.v := rfl
@[simp] theorem State.drawPhase_i (s : State) : (s.drawPhase).i = s.i := rfl
@[simp] theorem State.drawPhase_pc (s : State) : (s.drawPhase).pc = s.pc := rfl
@[simp] theorem State.drawPhase_stack (s : State) : (s.drawPhase).stack = s.stack := rfl
@[simp] theorem State.drawPhase_sp (s : State) : (s.drawPhase).sp = s.sp := rfl
@[simp] theorem State.drawPhase_mem (s : State) : (s.drawPhase).mem = s.mem := rfl
@[simp] theorem State.drawPhase_fb (s : State) : (s.drawPhase).fb = s.fb := rfl
@[simp] theorem State.drawPhase_dirty (s : State) : (s.drawPhase).dirty = (s.dirty && !s.turn.dirtyClear) := rfl
@[simp] theorem State.drawPhase_dt (s : State) : (s.drawPhase).dt = countDownBy s.dt s.turn.ticksBefore := rfl
@[simp] theorem State.drawPhase_st (s : State) : (s.drawPhase).st = countDownBy s.st s.turn.ticksBefore := rfl
@[simp] theorem State.drawPhase_sounding (s : State) : (s.drawPhase).sounding = s.sounding := rfl
@[simp] theorem State.drawPhase_faulted (s : State) : (s.drawPhase).faulted = s.faulted := rfl
@[simp] theorem State.drawPhase_cause (s : State) : (s.drawPhase).cause = s.cause := rfl
@[simp] theorem State.drawPhase_info (s : State) : (s.drawPhase).info = s.info := rfl
@[simp] theorem State.drawPhase_toggles (s : State) : (s.drawPhase).toggles = s.toggles := rfl
@[simp] theorem State.drawPhase_ended (s : State) : (s.drawPhase).ended = s.ended := rfl
@[simp] theorem State.drawPhase_events (s : State) : (s.drawPhase).events = .draw s.dirty :: s.events := rfl
@[simp] theorem State.drawPhase_turns (s : State) : (s.drawPhase).turns = s.turns := rfl
@[simp] theorem State.drawPhase_iter (s : State) : (s.drawPhase).iter = s.iter := rfl

@[simp] theorem State.advanceIndex_v (s : State) (x : Reg) : (advanceIndex s x).v = s.v := rfl
@[simp] theorem State.advanceIndex_i (s : State) (x : Reg) : (advanceIndex s x).i = if s.toggles.indexAdvance then BitVec.ofNat 16 (s.i.toNat + x.toNat + 1) else s.i := rfl
@[simp] theorem State.advanceIndex_pc (s : State) (x : Reg) : (advanceIndex s x).pc = s.pc := rfl
@[simp] theorem State.advanceIndex_stack (s : State) (x : Reg) : (advanceIndex s x).stack = s.stack := rfl
@[simp] theorem State.advanceIndex_sp (s : State) (x : Reg) : (advanceIndex s x).sp = s.sp := rfl
@[simp] theorem State.advanceIndex_mem (s : State) (x : Reg) : (advanceIndex s x).mem = s.mem := rfl
@[simp] theorem State.advanceIndex_fb (s : State) (x : Reg) : (advanceIndex s x).fb = s.fb := rfl
@[simp] theorem State.advanceIndex_dirty (s : State) (x : Reg) : (advanceIndex s x).dirty = s.dirty := rfl
@[simp] theorem State.advanceIndex_dt (s : State) (x : Reg) : (advanceIndex s x).dt = s.dt := rfl
@[simp] theorem State.advanceIndex_st (s : State) (x : Reg) : (advanceIndex s x).st = s.st := rfl
@[simp] theorem State.advanceIndex_sounding (s : State) (x : Reg) : (advanceIndex s x).sounding = s.sounding := rfl
@[simp] theorem State.advanceIndex_faulted (s : State) (x : Reg) : (advanceIndex s x).faulted = s.faulted := rfl
@[simp] theorem State.advanceIndex_cause (s : State) (x : Reg) : (advanceIndex s x).cause = s.cause := rfl
@[simp] theorem State.advanceIndex_info (s : State) (x : Reg) : (advanceIndex s x).info = s.info := rfl
@[simp] theorem State.advanceIndex_toggles (s : State) (x : Reg) : (advanceIndex s x).toggles = s.toggles := rfl
@[simp] theorem State.advanceIndex_ended (s : State) (x : Reg) : (advanceIndex s x).ended = s.ended := rfl
@[simp] theorem State.advanceIndex_events (s : State) (x : Reg) : (advanceIndex s x).events = s.events := rfl
@[simp] theorem State.advanceIndex_turns (s : State) (x : Reg) : (advanceIndex s x).turns = s.turns := rfl
@[simp] theorem State.advanceIndex_iter (s : State) (x : Reg) : (advanceIndex s x).iter = s.iter := rfl

@[simp] theorem State.fbClear_v (s : State) : (fbClear s).v = s.v := rfl
@[simp] theorem State.fbClear_i (s : State) : (fbClear s).i = s.i := rfl
@[simp] theorem State.fbClear_pc (s : State) : (fbClear s).pc = s.pc := rfl
@[simp] theorem State.fbClear_stack (s : State) : (fbClear s).stack = s.stack := rfl
@[simp] theorem State.fbClear_sp (s : State) : (fbClear s).sp = s.sp := rfl
@[simp] theorem State.fbClear_mem (s : State) : (fbClear s).mem = s.mem := rfl
@[simp] theorem State.fbClear_fb (s : State) : (fbClear s).fb = Grid.blank := rfl
@[simp] theorem State.fbClear_dirty (s : State) : (fbClear s).dirty = true := rfl
@[simp] theorem State.fbClear_dt (s : State) : (fbClear s).dt = s.dt := rfl
@[simp] theorem State.fbClear_st (s : State) : (fbClear s).st = s.st := rfl
@[simp] theorem State.fbClear_sounding (s : State) : (fbClear s).sounding = s.sounding := rfl
@[simp] theorem State.fbClear_faulted (s : State) : (fbClear s).faulted = s.faulted := rfl
@[simp] theorem State.fbClear_cause (s : State) : (fbClear s).cause = s.cause := rfl
@[simp] theorem State.fbClear_info (s : State) : (fbClear s).info = s.info := rfl
@[simp] theorem State.fbClear_toggles (s : State) : (fbClear s).toggles = s.toggles := rfl
@[simp] theorem State.fbClear_ended (s : State) : (fbClear s).ended = s.ended := rfl
@[simp] theorem State.fbClear_events (s : State) : (fbClear s).events = s.events := rfl
@[simp] theorem State.fbClear_turns (s : State) : (fbClear s).turns = s.turns := rfl
@[simp] theorem State.fbClear_iter (s : State) : (fbClear s).iter = s.iter := rfl

@[simp] theorem State.soundSample_v (s : State) : (soundSample s).v = s.v := rfl
@[simp] theorem State.soundSample_i (s : State) : (soundSample s).i = s.i := rfl
@[simp] theorem State.soundSample_pc (s : State) : (soundSample s).pc = s.pc := rfl
@[simp] theorem State.soundSample_stack (s : State) : (soundSample s).stack = s.stack := rfl
@[simp] theorem State.soundSample_sp (s : State) : (soundSample s).sp = s.sp := rfl
@[simp] theorem State.soundSample_mem (s : State) : (soundSample s).mem = s.mem := rfl
@[simp] theorem State.soundSample_fb (s : State) : (soundSample s).fb = s.fb := rfl
@[simp] theorem State.soundSample_dirty (s : State) : (soundSample s).dirty = s.dirty := rfl
@[simp] theorem State.soundSample_dt (s : State) : (soundSample s).dt = s.dt := rfl
@[simp] theorem State.soundSample_st (s : State) : (soundSample s).st = s.st := rfl
@[simp] theorem State.soundSample_sounding (s : State) : (soundSample s).sounding = !(s.st == 0) := rfl
@[simp] theorem State.soundSample_faulted (s : State) : (soundSample s).faulted = s.faulted := rfl
@[simp] theorem State.soundSample_cause (s : State) : (soundSample s).cause = s.cause := rfl
@[simp] theorem State.soundSample_info (s : State) : (soundSample s).info = s.info := rfl
@[simp] theorem State.soundSample_toggles (s : State) : (soundSample s).toggles = s.toggles := rfl
@[simp] theorem State.soundSample_ended (s : State) : (soundSample s).ended = s.ended := rfl
@[simp] theorem State.soundSample_events (s : State) : (soundSample s).events = if (!(s.st == 0)) == s.sounding then s.events else (if (!(s.st == 0)) then .playSound else .stopSound) :: s.events := rfl
@[simp] theorem State.soundSample_turns (s : State) : (soundSample s).turns = s.turns := rfl
@[simp] theorem State.soundSample_iter (s : State) : (soundSample s).iter = s.iter := rfl

@[simp] theorem State.soundPhase_v (s : State) : (s.soundPhase).v = s.v := rfl
@[simp] theorem State.soundPhase_i (s : State) : (s.soundPhase).i = s.i := rfl
@[simp] theorem State.soundPhase_pc (s : State) : (s.soundPhase).pc = s.pc := rfl
@[simp] theorem State.soundPhase_stack (s : State) : (s.soundPhase).stack = s.stack := rfl
@[simp] theorem State.soundPhase_sp (s : State) : (s.soundPhase).sp = s.sp := rfl
@[simp] theorem State.soundPhase_mem (s : State) : (s.soundPhase).mem = s.mem := rfl
@[simp] theorem State.soundPhase_fb (s : State) : (s.soundPhase).fb = s.fb := rfl
@[simp] theorem State.soundPhase_dirty (s : State) : (s.soundPhase).dirty = s.dirty := rfl
@[simp] theorem State.soundPhase_dt (s : State) : (s.soundPhase).dt = countDownBy (countDownBy s.dt s.turn.ticksAfter) s.turn.ticksLast := rfl
@[simp] theorem State.soundPhase_st (s : State) : (s.soundPhase).st = countDownBy (countDownBy s.st s.turn.ticksAfter) s.turn.ticksLast := rfl
@[simp] theorem State.soundPhase_sounding (s : State) : (s.soundPhase).sounding = !(countDownBy s.st s.turn.ticksAfter == 0) := rfl
@[simp] theorem State.soundPhase_faulted (s : State) : (s.soundPhase).faulted = s.faulted := rfl
@[simp] theorem State.soundPhase_cause (s : State) : (s.soundPhase).cause = s.cause := rfl
@[simp] theorem State.soundPhase_info (s : State) : (s.soundPhase).info = s.info := rfl
@[simp] theorem State.soundPhase_toggles (s : State) : (s.soundPhase).toggles = s.toggles := rfl
@[simp] theorem State.soundPhase_ended (s : State) : (s.soundPhase).ended = s.ended := rfl
@[simp] theorem State.soundPhase_events (s : State) : (s.soundPhase).events = (soundSample (s.ticks s.turn.ticksAfter)).events := rfl
@[simp] theorem State.soundPhase_turns (s : State) : (s.soundPhase).turns = s.turns := rfl
@[simp] theorem State.soundPhase_iter (s : State) : (s.soundPhase).iter = s.iter := rfl

@[simp] theorem State.endRun_v (s : State) : (s.endRun).v = s.v := rfl
@[simp] theorem State.endRun_i (s : State) : (s.endRun).i = s.i := rfl
@[simp] theorem State.endRun_pc (s : State) : (s.endRun).pc = s.pc := rfl
@[simp] theorem State.endRun_stack (s : State) : (s.endRun).stack = s.stack := rfl
@[simp] theorem State.endRun_sp (s : State) : (s.endRun).sp = s.sp := rfl
@[simp] theorem State.endRun_mem (s : State) : (s.endRun).mem = s.mem := rfl
@[simp] theorem State.endRun_fb (s : State) : (s.endRun).fb = s.fb := rfl
@[simp] theorem State.endRun_dirty (s : State) : (s.endRun).dirty = s.dirty := rfl
@[simp] theorem State.endRun_dt (s : State) : (s.endRun).dt = countDownBy s.dt s.turn.ticksBefore := rfl
@[simp] theorem State.endRun_st (s : State) : (s.endRun).st = countDownBy s.st s.turn.ticksBefore := rfl
@[simp] theorem State.endRun_sounding (s : State) : (s.endRun).sounding = s.sounding := rfl
@[simp] theorem State.endRun_faulted (s : State) : (s.endRun).faulted = s.faulted := rfl
@[simp] theorem State.endRun_cause (s : State) : (s.endRun).cause = s.cause := rfl
@[simp] theorem State.endRun_info (s : State) : (s.endRun).info = s.info := rfl
@[simp] theorem State.endRun_toggles (s : State) : (s.endRun).toggles = s.toggles := rfl
@[simp] theorem State.endRun_ended (s : State) : (s.endRun).ended = true := rfl
@[simp] theorem State.endRun_events (s : State) : (s.endRun).events = s.events := rfl
@[simp] theorem State.endRun_turns (s : State) : (s.endRun).turns = s.turns.tail := rfl
@[simp] theorem State.endRun_iter (s : State) : (s.endRun).iter = s.iter + 1 := rfl

/-! ## Registers after an update -/

@[simp] theorem State.getV_setV_same (s : State) (x : Reg) (b : Byte) : (s.setV x b).getV x = b := by
  simp [State.getV, State.setV]

@[simp] theorem State.getV_setV_ne (s : State) {x y : Reg} (b : Byte) (h : y ≠ x) : (s.setV x b).getV y = s.getV y := by
  have hne : x.toNat ≠ y.toNat := fun e => h (BitVec.eq_of_toNat_eq e.symm)
  simp [State.getV, State.setV, Vector.getElem_set_ne, hne]

theorem State.getV_setV (s : State) (x y : Reg) (b : Byte) :
    (s.setV x b).getV y = if y = x then b else s.getV y := by
  by_cases h : y = x
  · simp [h]
  · simp [h]

/-- Two states with the same registers read the same in every register. -/
theorem State.getV_congr {s t : State} (h : t.v = s.v) (x : Reg) : t.getV x = s.getV x := by
  simp [State.getV, h]

@[simp] theorem State.setI_getV (s : State) (w : Word) (x : Reg) : (s.setI w).getV x = s.getV x := rfl
@[simp] theorem State.setPc_getV (s : State) (w : Word) (x : Reg) : (s.setPc w).getV x = s.getV x := rfl
@[simp] theorem State.setDt_getV (s : State) (b : Byte) (x : Reg) : (s.setDt b).getV x = s.getV x := rfl
@[simp] theorem State.setSt_getV (s : State) (b : Byte) (x : Reg) : (s.setSt b).getV x = s.getV x := rfl
@[simp] theorem State.skipIf_getV (s : State) (c : Bool) (x : Reg) : (s.skipIf c).getV x = s.getV x := rfl
@[simp] theorem State.raise_getV (s : State) (c : Cause) (n : Nat) (x : Reg) : (s.raise c n).getV x = s.getV x := rfl
@[simp] theorem State.emit_getV (s : State) (e : OutEvent) (x : Reg) : (s.emit e).getV x = s.getV x := rfl
@[simp] theorem State.tick_getV (s : State) (x : Reg) : (s.tick).getV x = s.getV x := rfl
@[simp] theorem State.ticks_getV (s : State) (n : Nat) (x : Reg) : (s.ticks n).getV x = s.getV x := rfl
@[simp] theorem State.endTurn_getV (s : State) (x : Reg) : (s.endTurn).getV x = s.getV x := rfl
@[simp] theorem State.drawPhase_getV (s : State) (x : Reg) : (s.drawPhase).getV x = s.getV x := rfl
@[simp] theorem State.advanceIndex_getV (s : State) (y : Reg) (x : Reg) : (advanceIndex s y).getV x = s.getV x := rfl
@[simp] theorem State.fbClear_getV (s : State) (x : Reg) : (fbClear s).getV x = s.getV x := rfl
@[simp] theorem State.soundSample_getV (s : State) (x : Reg) : (soundSample s).getV x = s.getV x := rfl
@[simp] theorem State.endRun_getV (s : State) (x : Reg) : (s.endRun).getV x = s.getV x := rfl
@[simp] theorem State.soundPhase_getV (s : State) (x : Reg) : (s.soundPhase).getV x = s.getV x := rfl

/-! ## The inputs of the iteration after an update -/

theorem State.turn_congr {s t : State} (ht : t.turns = s.turns) (hi : t.iter = s.iter) : t.turn = s.turn := by
  simp [State.turn, ht, hi]

@[simp] theorem State.setV_turn (s : State) (x : Reg) (b : Byte) : (s.setV x b).turn = s.turn := rfl
@[simp] theorem State.setI_turn (s : State) (w : Word) : (s.setI w).turn = s.turn := rfl
@[simp] theorem State.setPc_turn (s : State) (w : Word) : (s.setPc w).turn = s.turn := rfl
@[simp] theorem State.setDt_turn (s : State) (b : Byte) : (s.setDt b).turn = s.turn := rfl
@[simp] theorem State.setSt_turn (s : State) (b : Byte) : (s.setSt b).turn = s.turn := rfl
@[simp] theorem State.skipIf_turn (s : State) (c : Bool) : (s.skipIf c).turn = s.turn := rfl
@[simp] theorem State.raise_turn (s : State) (c : Cause) (n : Nat) : (s.raise c n).turn = s.turn := rfl
@[simp] theorem State.emit_turn (s : State) (e : OutEvent) : (s.emit e).turn = s.turn := rfl
@[simp] theorem State.tick_turn (s : State) : (s.tick).turn = s.turn := rfl
@[simp] theorem State.ticks_turn (s : State) (n : Nat) : (s.ticks n).turn = s.turn := rfl
@[simp] theorem State.drawPhase_turn (s : State) : (s.drawPhase).turn = s.turn := rfl
@[simp] theorem State.advanceIndex_turn (s : State) (x : Reg) : (advanceIndex s x).turn = s.turn := rfl
@[simp] theorem State.fbClear_turn (s : State) : (fbClear s).turn = s.turn := rfl
@[simp] theorem State.soundSample_turn (s : State) : (soundSample s).turn = s.turn := rfl
@[simp] theorem State.soundPhase_turn (s : State) : (s.soundPhase).turn = s.turn := rfl

@[simp] theorem State.letRun_turn (s : State) : s.letRun.turn = { s.turn with stopReq := false, hostError := .none } := rfl

/-! ## Result and flag, ticks -/

/-- The flag write comes last, so VF holds the flag even when it was the destination (R100). -/
@[simp] theorem State.setResultThenFlag_flag (s : State) (x : Reg) (r : Byte × Bool) :
    (s.setResultThenFlag x r).getV regVF = flagByte r.2 := by
  simp [State.setResultThenFlag]

/-- Any other destination holds the result. -/
theorem State.setResultThenFlag_result (s : State) {x : Reg} (r : Byte × Bool) (h : x ≠ regVF) :
    (s.setResultThenFlag x r).getV x = r.1 := by
  rw [State.setResultThenFlag, State.getV_setV_ne _ _ h, State.getV_setV_same]

/-- Every other register is as it was. -/
theorem State.setResultThenFlag_other (s : State) {x y : Reg} (r : Byte × Bool) (hx : y ≠ x) (hf : y ≠ regVF) :
    (s.setResultThenFlag x r).getV y = s.getV y := by
  rw [State.setResultThenFlag, State.getV_setV_ne _ _ hf, State.getV_setV_ne _ _ hx]

theorem State.ticks_zero (s : State) : s.ticks 0 = s := rfl

/-- n + 1 ticks are one tick and then n. -/
theorem State.ticks_succ (s : State) (n : Nat) : s.ticks (n + 1) = s.tick.ticks n := rfl

end Sys2Proof.Machine
end

