-- ==== Sys2Proof/Laws/Ops.lean ====
section
/-! SUPPORT. What each shared operation can do, said once: later proofs cite these lemmas and do not unfold the operation. -/

namespace Sys2Proof.Machine

/-! ## One byte of memory -/

theorem loadByte_ok (s : State) {a : Nat} (h : a < 4096) : loadByte s a = .ok (s.mem.read a) := by
  have : ¬ 4096 ≤ a := by omega
  simp [loadByte, this]

theorem loadByte_error (s : State) {a : Nat} (h : 4096 ≤ a) : loadByte s a = .error (s.raise .memOob a) := by
  simp [loadByte, h]

theorem storeByte_ok (s : State) {a : Nat} (b : Byte) (h : a < 4096) :
    storeByte s a b = .ok { s with mem := s.mem.write a b } := by
  have : ¬ 4096 ≤ a := by omega
  simp [storeByte, this]

theorem storeByte_error (s : State) {a : Nat} (b : Byte) (h : 4096 ≤ a) :
    storeByte s a b = .error (s.raise .memOob a) := by
  simp [storeByte, h]

/-! ## Several bytes -/

/-- Stores that all fit write exactly their bytes. -/
theorem storeBytes_ok (bs : List Byte) (s : State) (a : Nat) (h : a + bs.length ≤ 4096) :
    storeBytes s a bs = .ok { s with mem := s.mem.writeBytes a bs } := by
  induction bs generalizing s a with
  | nil => rfl
  | cons b bs ih =>
    simp only [List.length_cons] at h
    simp only [storeBytes, storeByte_ok s b (by omega : a < 4096)]
    exact ih _ (a + 1) (by omega)

/-- Stores that do not all fit write the bytes before the first address that is out of range, then raise MEM_OOB at it. -/
theorem storeBytes_error (bs : List Byte) (s : State) (a k : Nat) (hk : k < bs.length) (hout : 4096 ≤ a + k)
    (hin : ∀ j, j < k → a + j < 4096) :
    storeBytes s a bs = .error ({ s with mem := s.mem.writeBytes a (bs.take k) }.raise .memOob (a + k)) := by
  induction bs generalizing s a k with
  | nil => simp at hk
  | cons b bs ih =>
    cases k with
    | zero => simp [storeBytes, storeByte_error s b (by omega : 4096 ≤ a), Memory.writeBytes]
    | succ k =>
      have h0 := hin 0 (by omega)
      simp only [storeBytes, storeByte_ok s b (by omega : a < 4096)]
      rw [ih _ (a + 1) k (by simpa using hk) (by omega) (fun j hj => by have := hin (j + 1) (by omega); omega)]
      simp [Memory.writeBytes, Nat.add_assoc, Nat.add_comm 1 k]

/-- Loads that all fit change registers only: V[k + j] from a + j for j < n. -/
theorem loadRegs_ok (n : Nat) (s : State) (a k : Nat) (h : ∀ m, m < n → a + m < 4096) (hk : k + n ≤ 16) :
    ∃ t, loadRegs s a k n = .ok t ∧ t = { s with v := t.v } ∧
      ∀ x : Reg, t.getV x = if k ≤ x.toNat ∧ x.toNat < k + n then s.mem.read (a + (x.toNat - k)) else s.getV x := by
  induction n generalizing s a k with
  | zero => exact ⟨s, rfl, rfl, fun x => by rw [if_neg (by omega)]⟩
  | succ n ih =>
    simp only [loadRegs, loadByte_ok s (by simpa using h 0 (by omega) : a < 4096)]
    obtain ⟨t, ht, hf, hv⟩ := ih (s.setV (BitVec.ofNat 4 k) (s.mem.read a)) (a + 1) (k + 1)
      (fun m hm => by have := h (m + 1) (by omega); omega) (by omega)
    refine ⟨t, ht, ?_, fun x => ?_⟩
    · rw [State.setV] at hf
      exact hf
    · have hx := x.isLt
      have hofn : (BitVec.ofNat 4 k).toNat = k := by rw [BitVec.toNat_ofNat]; omega
      rw [hv, State.getV_setV, State.setV_mem]
      by_cases hxk : x.toNat = k
      · have he : x = BitVec.ofNat 4 k := BitVec.eq_of_toNat_eq (by rw [hofn, hxk])
        rw [if_neg (by omega), if_pos he, if_pos (by omega), hxk, Nat.sub_self, Nat.add_zero]
      · have he : x ≠ BitVec.ofNat 4 k := fun e => hxk (by rw [e, hofn])
        rw [if_neg he]
        by_cases hr : k + 1 ≤ x.toNat ∧ x.toNat < k + 1 + n
        · rw [if_pos hr, if_pos (by omega), show a + 1 + (x.toNat - (k + 1)) = a + (x.toNat - k) by omega]
        · rw [if_neg hr, if_neg (by omega)]

/-- Loads that do not all fit load the registers before the first address that is out of range, then raise MEM_OOB at it. -/
theorem loadRegs_error (n : Nat) (s : State) (a k j : Nat) (hj : j < n) (hout : 4096 ≤ a + j) (hin : ∀ m, m < j → a + m < 4096) :
    ∃ t, loadRegs s a k j = .ok t ∧ loadRegs s a k n = .error (t.raise .memOob (a + j)) := by
  induction n generalizing s a k j with
  | zero => omega
  | succ n ih =>
    cases j with
    | zero => exact ⟨s, rfl, by simp [loadRegs, loadByte_error s (by omega : 4096 ≤ a)]⟩
    | succ j =>
      have h0 := hin 0 (by omega)
      simp only [loadRegs, loadByte_ok s (by omega : a < 4096)]
      obtain ⟨t, h1, h2⟩ := ih (s.setV (BitVec.ofNat 4 k) (s.mem.read a)) (a + 1) (k + 1) j (by omega) (by omega)
        (fun m hm => by have := hin (m + 1) (by omega); omega)
      exact ⟨t, h1, by rw [h2]; simp [Nat.add_assoc, Nat.add_comm 1 j]⟩

/-! ## Call stack -/

theorem push_ok (s : State) (w : Word) (h : s.sp < 128) :
    push s w = .ok { s with stack := s.stack.setIfInBounds s.sp w, sp := s.sp + 1 } := by
  have : ¬ 128 ≤ s.sp := by omega
  simp [push, this]

theorem push_error (s : State) (w : Word) (h : 128 ≤ s.sp) : push s w = .error (s.raise .stackOverflow w.toNat) := by
  simp [push, h]

theorem pop_ok (s : State) (h : 0 < s.sp) : pop s = .ok (s.entry (s.sp - 1), { s with sp := s.sp - 1 }) := by
  have : s.sp ≠ 0 := by omega
  simp [pop, this]

theorem pop_error (s : State) (h : s.sp = 0) : pop s = .error (s.raise .stackUnderflow 0) := by
  simp [pop, h]

/-- The entries after a push: the value pushed at the old SP, the others as they were. -/
theorem entry_setIfInBounds (st : Vector Word 128) (k j : Nat) (w : Word) (hk : k < 128) :
    ((st.setIfInBounds k w)[j]?).getD 0 = if j = k then w else (st[j]?).getD 0 := by
  by_cases h : j = k
  · subst h; simp [hk]
  · simp [Vector.getElem?_setIfInBounds_ne, Ne.symm h, h]

/-! ## Framebuffer unit -/

theorem fbXor_ok (s : State) {row col : Nat} (b : Bool) (hr : row < 32) (hc : col < 64) :
    fbXor s row col b =
      .ok (s.fb.get row col && b, { s with fb := s.fb.put row col (s.fb.get row col ^^ b), dirty := true }) := by
  have : ¬ (32 ≤ row ∨ 64 ≤ col) := by omega
  simp [fbXor, this]

/-! ## Ticks -/

theorem countDown_toNat (b : Byte) : (countDown b).toNat = b.toNat - 1 := by
  have hb := b.isLt
  unfold countDown
  split
  · rw [BitVec.toNat_sub]
    have h1 : (1 : Byte).toNat = 1 := rfl
    omega
  · have h0 : (0 : Byte).toNat = 0 := rfl
    omega

/-- k ticks leave max(0, v − k) (R195). -/
theorem countDownBy_toNat (n : Nat) (b : Byte) : (countDownBy b n).toNat = b.toNat - n := by
  induction n generalizing b with
  | zero => simp [countDownBy]
  | succ n ih => rw [countDownBy, ih, countDown_toNat]; omega

end Sys2Proof.Machine
end

