-- ==== Sys2Proof/Laws/Draw.lean ====
section
/-! SUPPORT. What the two loops of `DXYN` do (R144): the cells they XOR, the collision they report, what they leave alone. -/

namespace Sys2Proof.Machine

/-- The inner loop over the columns k, …, k + n − 1 of one row: it never faults, XORs the bits inside the right clip, and its `hit` is sticky. -/
theorem drawColumns_spec (byte : Byte) (row x0 n k : Nat) (hit : Bool) (s : State) (hr : row < 32) :
    ∃ hit' t, drawColumns byte row x0 (List.range' k n) hit s = .ok (hit', t) ∧
      t = { s with fb := t.fb, dirty := t.dirty } ∧
      (∀ r c, r < 32 → c < 64 → t.fb.get r c =
        (s.fb.get r c ^^ (decide (r = row ∧ x0 + k ≤ c ∧ c < x0 + k + n) && byte.getLsbD (7 - (c - x0))))) ∧
      t.dirty = (s.dirty || decide (0 < n ∧ x0 + k < 64)) ∧
      (hit' = true ↔ hit = true ∨ ∃ c, c < 64 ∧ x0 + k ≤ c ∧ c < x0 + k + n ∧
        s.fb.get row c = true ∧ byte.getLsbD (7 - (c - x0)) = true) := by
  induction n generalizing k hit s with
  | zero =>
    refine ⟨hit, s, rfl, rfl, fun r c _ _ => ?_, by simp, ?_⟩
    · have : ¬ (r = row ∧ x0 + k ≤ c ∧ c < x0 + k + 0) := by omega
      simp only [decide_eq_false this, Bool.false_and, Bool.xor_false]
    · constructor
      · exact Or.inl
      · rintro (h | ⟨c, _, h1, h2, _⟩)
        · exact h
        · omega
  | succ n ih =>
    rw [List.range'_succ]
    by_cases hclip : 64 ≤ x0 + k
    · refine ⟨hit, s, by simp [drawColumns, hclip], rfl, fun r c _ hc => ?_, ?_, ?_⟩
      · have : ¬ (r = row ∧ x0 + k ≤ c ∧ c < x0 + k + (n + 1)) := by omega
        simp only [decide_eq_false this, Bool.false_and, Bool.xor_false]
      · have : ¬ (0 < n + 1 ∧ x0 + k < 64) := by omega
        simp only [decide_eq_false this, Bool.or_false]
      · constructor
        · exact Or.inl
        · rintro (h | ⟨c, hc, h1, _⟩)
          · exact h
          · omega
    · have hin : x0 + k < 64 := by omega
      simp only [drawColumns, hclip, if_false, fbXor_ok s _ hr hin]
      obtain ⟨hit', t, ht, hf, hcell, hd, hh⟩ := ih (k + 1) (hit || (s.fb.get row (x0 + k) && byte.getLsbD (7 - k)))
        { s with fb := s.fb.put row (x0 + k) (s.fb.get row (x0 + k) ^^ byte.getLsbD (7 - k)), dirty := true }
      refine ⟨hit', t, ht, ?_, fun r c hr' hc => ?_, ?_, ?_⟩
      · exact hf
      · rw [hcell r c hr' hc]
        simp only [Grid.get_put _ _ _ _ _ _ hr hin]
        by_cases h1 : r = row ∧ c = x0 + k
        · have h2 : ¬ (r = row ∧ x0 + (k + 1) ≤ c ∧ c < x0 + (k + 1) + n) := by omega
          have h3 : r = row ∧ x0 + k ≤ c ∧ c < x0 + k + (n + 1) := by omega
          rw [if_pos h1, decide_eq_false h2, decide_eq_true h3, h1.1, h1.2, show x0 + k - x0 = k by omega]
          simp
        · rw [if_neg h1]
          have : (r = row ∧ x0 + (k + 1) ≤ c ∧ c < x0 + (k + 1) + n) ↔ (r = row ∧ x0 + k ≤ c ∧ c < x0 + k + (n + 1)) := by omega
          simp only [this]
      · have : 0 < n + 1 ∧ x0 + k < 64 := by omega
        rw [hd]
        simp [hin]
      · rw [hh]
        simp only [Grid.get_put _ _ _ _ _ _ hr hin]
        constructor
        · rintro (h | ⟨c, hc, h1, h2, h3, h4⟩)
          · simp only [Bool.or_eq_true, Bool.and_eq_true] at h
            rcases h with h | ⟨h, h'⟩
            · exact Or.inl h
            · exact Or.inr ⟨x0 + k, hin, by omega, by omega, h, by rwa [show x0 + k - x0 = k by omega]⟩
          · rw [if_neg (by omega)] at h3
            exact Or.inr ⟨c, hc, by omega, by omega, h3, h4⟩
        · rintro (h | ⟨c, hc, h1, h2, h3, h4⟩)
          · exact Or.inl (by simp [h])
          · by_cases hck : c = x0 + k
            · refine Or.inl ?_
              subst hck
              rw [show x0 + k - x0 = k by omega] at h4
              simp [h3, h4]
            · exact Or.inr ⟨c, hc, by omega, by omega, by rw [if_neg (by omega)]; exact h3, h4⟩

/-- The bit of sprite row r, as `drawRows` reads it, over the cell (row, col). -/
theorem spriteBit_congr {s t : State} (hm : t.mem = s.mem) (hi : t.i = s.i) (x0 y0 n row col : Nat) :
    spriteBit t x0 y0 n row col = spriteBit s x0 y0 n row col := by
  simp [spriteBit, State.ea, hm, hi]

/-- The part of a sprite from sprite row k on, of n rows. -/
def spriteRowsBit (s : State) (x0 y0 k n row col : Nat) : Bool :=
  decide (y0 + k ≤ row ∧ row < y0 + k + n ∧ x0 ≤ col ∧ col < x0 + 8) && (s.mem.read (s.ea (row - y0))).getLsbD (7 - (col - x0))

theorem spriteRowsBit_zero (s : State) (x0 y0 n row col : Nat) :
    spriteRowsBit s x0 y0 0 n row col = spriteBit s x0 y0 n row col := by
  simp [spriteRowsBit, spriteBit]

/-- The outer loop over the sprite rows k, …, k + n − 1, when every row inside the bottom clip has its byte in memory. -/
theorem drawRows_ok (x0 y0 : Nat) (hx : x0 < 64) (n k : Nat) (hit : Bool) (s : State)
    (hm : ∀ r, k ≤ r → r < k + n → y0 + r < 32 → s.ea r < 4096) :
    ∃ hit' t, drawRows x0 y0 (List.range' k n) hit s = .ok (hit', t) ∧
      t = { s with fb := t.fb, dirty := t.dirty } ∧
      (∀ r c, r < 32 → c < 64 → t.fb.get r c = (s.fb.get r c ^^ spriteRowsBit s x0 y0 k n r c)) ∧
      t.dirty = (s.dirty || decide (0 < n ∧ y0 + k < 32)) ∧
      (hit' = true ↔ hit = true ∨ ∃ r c, r < 32 ∧ c < 64 ∧ s.fb.get r c = true ∧ spriteRowsBit s x0 y0 k n r c = true) := by
  induction n generalizing k hit s with
  | zero =>
    have hno : ∀ r c, spriteRowsBit s x0 y0 k 0 r c = false := fun r c => by
      have : ¬ (y0 + k ≤ r ∧ r < y0 + k + 0 ∧ x0 ≤ c ∧ c < x0 + 8) := by omega
      simp only [spriteRowsBit, decide_eq_false this, Bool.false_and]
    refine ⟨hit, s, rfl, rfl, fun r c _ _ => by simp [hno], by simp, ?_⟩
    simp [hno]
  | succ n ih =>
    rw [List.range'_succ]
    by_cases hclip : 32 ≤ y0 + k
    · have hno : ∀ r c, r < 32 → spriteRowsBit s x0 y0 k (n + 1) r c = false := fun r c hr => by
        have : ¬ (y0 + k ≤ r ∧ r < y0 + k + (n + 1) ∧ x0 ≤ c ∧ c < x0 + 8) := by omega
        simp only [spriteRowsBit, decide_eq_false this, Bool.false_and]
      refine ⟨hit, s, by simp [drawRows, hclip], rfl, fun r c hr _ => by simp [hno r c hr], ?_, ?_⟩
      · have : ¬ (0 < n + 1 ∧ y0 + k < 32) := by omega
        simp only [decide_eq_false this, Bool.or_false]
      · constructor
        · exact Or.inl
        · rintro (h | ⟨r, c, hr, hc, _, h⟩)
          · exact h
          · rw [hno r c hr] at h; exact absurd h (by simp)
    · have hrow : y0 + k < 32 := by omega
      have hbyte := hm k (by omega) (by omega) hrow
      obtain ⟨hit1, t1, ht1, hf1, hc1, hd1, hh1⟩ :=
        drawColumns_spec (s.mem.read (s.ea k)) (y0 + k) x0 8 0 hit s hrow
      have hmem1 : t1.mem = s.mem := by rw [hf1]
      have hi1 : t1.i = s.i := by rw [hf1]
      have hea : ∀ r, t1.ea r = s.ea r := fun r => by simp [State.ea, hi1]
      obtain ⟨hit2, t2, ht2, hf2, hc2, hd2, hh2⟩ := ih (k + 1) hit1 t1 (fun r h1 h2 h3 => by
        rw [hea]; exact hm r (by omega) (by omega) h3)
      have hbit : ∀ r c, spriteRowsBit t1 x0 y0 (k + 1) n r c = spriteRowsBit s x0 y0 (k + 1) n r c := fun r c => by
        simp only [spriteRowsBit, hmem1, hea]
      have hsplit : ∀ r c, spriteRowsBit s x0 y0 k (n + 1) r c =
          ((decide (r = y0 + k ∧ x0 + 0 ≤ c ∧ c < x0 + 0 + 8) && (s.mem.read (s.ea k)).getLsbD (7 - (c - x0))) ^^
            spriteRowsBit s x0 y0 (k + 1) n r c) := fun r c => by
        simp only [spriteRowsBit]
        by_cases hrk : r = y0 + k
        · have h2 : ¬ (y0 + (k + 1) ≤ r ∧ r < y0 + (k + 1) + n ∧ x0 ≤ c ∧ c < x0 + 8) := by omega
          have h3 : (y0 + k ≤ r ∧ r < y0 + k + (n + 1) ∧ x0 ≤ c ∧ c < x0 + 8) ↔ (r = y0 + k ∧ x0 + 0 ≤ c ∧ c < x0 + 0 + 8) := by omega
          rw [decide_eq_false h2, show r - y0 = k by omega]
          simp only [h3, Bool.false_and, Bool.xor_false]
        · have h2 : ¬ (r = y0 + k ∧ x0 + 0 ≤ c ∧ c < x0 + 0 + 8) := by omega
          have h3 : (y0 + k ≤ r ∧ r < y0 + k + (n + 1) ∧ x0 ≤ c ∧ c < x0 + 8) ↔
              (y0 + (k + 1) ≤ r ∧ r < y0 + (k + 1) + n ∧ x0 ≤ c ∧ c < x0 + 8) := by omega
          rw [decide_eq_false h2]
          simp only [h3, Bool.false_and, Bool.false_xor]
      refine ⟨hit2, t2, ?_, ?_, fun r c hr hc => ?_, ?_, ?_⟩
      · simp only [drawRows, hclip, if_false, loadByte_ok s hbyte, List.range_eq_range', ht1, ht2]
      · refine hf2.trans ?_
        rw [hf1]
      · rw [hc2 r c hr hc, hc1 r c hr hc, hbit, hsplit, Bool.xor_assoc]
      · rw [hd2, hd1]
        have : 0 < n + 1 ∧ y0 + k < 32 := by omega
        simp [this, hx]
      · rw [hh2, hh1]
        constructor
        · rintro ((h | ⟨c, hc, h1, h2, h3, h4⟩) | ⟨r, c, hr, hc, h1, h2⟩)
          · exact Or.inl h
          · refine Or.inr ⟨y0 + k, c, hrow, hc, h3, ?_⟩
            have h5 : ¬ (y0 + (k + 1) ≤ y0 + k ∧ y0 + k < y0 + (k + 1) + n ∧ x0 ≤ c ∧ c < x0 + 8) := by omega
            rw [hsplit, spriteRowsBit, decide_eq_false h5, decide_eq_true ⟨rfl, h1, h2⟩, h4]
            simp
          · rw [hbit] at h2
            have hge : y0 + (k + 1) ≤ r := by
              simp only [spriteRowsBit, Bool.and_eq_true, decide_eq_true_eq] at h2
              exact h2.1.1
            have hne : ¬ (r = y0 + k ∧ x0 + 0 ≤ c ∧ c < x0 + 0 + 8) := by omega
            rw [hc1 r c hr hc, decide_eq_false hne] at h1
            refine Or.inr ⟨r, c, hr, hc, by simpa using h1, ?_⟩
            rw [hsplit, decide_eq_false hne, h2]
            simp
        · rintro (h | ⟨r, c, hr, hc, h1, h2⟩)
          · exact Or.inl (Or.inl h)
          · by_cases hrk : r = y0 + k
            · subst hrk
              have h5 : ¬ (y0 + (k + 1) ≤ y0 + k ∧ y0 + k < y0 + (k + 1) + n ∧ x0 ≤ c ∧ c < x0 + 8) := by omega
              rw [hsplit, spriteRowsBit, decide_eq_false h5] at h2
              simp only [Bool.false_and, Bool.xor_false, Bool.and_eq_true, decide_eq_true_eq] at h2
              exact Or.inl (Or.inr ⟨c, hc, h2.1.2.1, h2.1.2.2, h1, h2.2⟩)
            · have hne : ¬ (r = y0 + k ∧ x0 + 0 ≤ c ∧ c < x0 + 0 + 8) := by omega
              rw [hsplit, decide_eq_false hne] at h2
              refine Or.inr ⟨r, c, hr, hc, ?_, ?_⟩
              · rw [hc1 r c hr hc, decide_eq_false hne]; simpa using h1
              · rw [hbit]; simpa using h2

/-- The outer loop when row k + j is the first one inside the bottom clip whose byte is outside memory: the rows before it are drawn, then MEM_OOB. -/
theorem drawRows_error (x0 y0 n k j : Nat) (hit : Bool) (s : State) (hj : j < n) (hrow : y0 + (k + j) < 32)
    (hout : 4096 ≤ s.ea (k + j)) (hin : ∀ m, m < j → s.ea (k + m) < 4096) :
    ∃ hit' t, drawRows x0 y0 (List.range' k j) hit s = .ok (hit', t) ∧
      drawRows x0 y0 (List.range' k n) hit s = .error (t.raise .memOob (s.ea (k + j))) := by
  induction n generalizing k j hit s with
  | zero => omega
  | succ n ih =>
    cases j with
    | zero =>
      refine ⟨hit, s, rfl, ?_⟩
      have : ¬ 32 ≤ y0 + k := by omega
      simp only [List.range'_succ, drawRows, this, if_false, loadByte_error s (by simpa using hout : 4096 ≤ s.ea k), Nat.add_zero]
    | succ j =>
      have hk := hin 0 (by omega)
      have hclip : ¬ 32 ≤ y0 + k := by omega
      obtain ⟨hit1, t1, ht1, hf1, _⟩ := drawColumns_spec (s.mem.read (s.ea k)) (y0 + k) x0 8 0 hit s (by omega)
      have hi1 : t1.i = s.i := by rw [hf1]
      have hea : ∀ r, t1.ea r = s.ea r := fun r => by simp [State.ea, hi1]
      obtain ⟨hit2, t2, h1, h2⟩ := ih (k + 1) j hit1 t1 (by omega) (by omega)
        (by rw [hea, show k + 1 + j = k + (j + 1) by omega]; exact hout)
        (fun m hm => by rw [hea, show k + 1 + m = k + (m + 1) by omega]; exact hin (m + 1) (by omega))
      refine ⟨hit2, t2, ?_, ?_⟩
      · rw [List.range'_succ]
        simp only [drawRows, hclip, if_false, loadByte_ok s (by simpa using hk : s.ea k < 4096), List.range_eq_range', ht1, h1]
      · rw [List.range'_succ]
        simp only [drawRows, hclip, if_false, loadByte_ok s (by simpa using hk : s.ea k < 4096), List.range_eq_range', ht1, h2,
          hea, show k + 1 + j = k + (j + 1) by omega]

end Sys2Proof.Machine
end

