-- ==== Sys2Proof/Laws/Encoding.lean ====
section
/-! SUPPORT. Words as four nibbles: the fields, formats and table rows of R61 to R66 nibble by nibble, so that a proof about encoding is a case
split over the class nibble. -/

namespace Sys2Proof

/-- The word with these four nibbles, most significant first. -/
def quad (c x y n : Nibble) : Word := c ++ x ++ y ++ n

/-! ## Bits -/

theorem quad_bit (c x y n : Nibble) (i : Nat) : (quad c x y n).getLsbD i =
    if i < 4 then n.getLsbD i else if i < 8 then y.getLsbD (i - 4) else if i < 12 then x.getLsbD (i - 8) else c.getLsbD (i - 12) := by
  have h1 : (quad c x y n).getLsbD i = if i < 4 then n.getLsbD i else (c ++ x ++ y).getLsbD (i - 4) := BitVec.getLsbD_append ..
  have h2 : ∀ j, (c ++ x ++ y : BitVec (4 + 4 + 4)).getLsbD j = if j < 4 then y.getLsbD j else (c ++ x).getLsbD (j - 4) := fun j => BitVec.getLsbD_append ..
  have h3 : ∀ j, (c ++ x : BitVec (4 + 4)).getLsbD j = if j < 4 then x.getLsbD j else c.getLsbD (j - 4) := fun j => BitVec.getLsbD_append ..
  rw [h1, h2, h3]
  split
  · rfl
  · rename_i h
    by_cases h8 : i < 8
    · simp [h8, show i - 4 < 4 by omega]
    · by_cases h12 : i < 12
      · simp [h8, h12, show ¬ i - 4 < 4 by omega, show i - 4 - 4 = i - 8 by omega, show i - 8 < 4 by omega]
      · simp [h8, h12, show ¬ i - 4 < 4 by omega, show ¬ i - 4 - 4 < 4 by omega, show i - 4 - 4 - 4 = i - 12 by omega]

theorem nn_bit (y n : Nibble) (i : Nat) : (y ++ n : Byte).getLsbD i = if i < 4 then n.getLsbD i else y.getLsbD (i - 4) := BitVec.getLsbD_append ..

theorem nnn_bit (x y n : Nibble) (i : Nat) : (x ++ y ++ n : Addr12).getLsbD i = if i < 4 then n.getLsbD i else if i < 8 then y.getLsbD (i - 4) else x.getLsbD (i-8) := by
  have h1 : (x ++ y ++ n : Addr12).getLsbD i = if i < 4 then n.getLsbD i else (x ++ y).getLsbD (i - 4) := BitVec.getLsbD_append ..
  have h2 := nn_bit x y (i-4)
  rw [h1]; split
  · rfl
  · rw [show (x ++ y).getLsbD (i - 4) = _ from h2]
    by_cases h8 : i < 8
    · simp [h8, show i - 4 < 4 by omega]
    · simp [h8, show ¬ i - 4 < 4 by omega, show i - 4 - 4 = i - 8 by omega]

/-! ## Fields of a word of four nibbles -/

@[simp] theorem quad_cls (c x y n : Nibble) : (quad c x y n).extractLsb' 12 4 = c := by
  apply BitVec.eq_of_getLsbD_eq; intro i hi
  simp [quad_bit, hi, show ¬ 12 + i < 4 by omega, show ¬ 12 + i < 8 by omega]

@[simp] theorem quad_x (c x y n : Nibble) : fieldX (quad c x y n) = x := by
  apply BitVec.eq_of_getLsbD_eq; intro i hi
  simp [fieldX, quad_bit, hi, show 8 + i < 12 by omega, show ¬ 8 + i < 4 by omega]

@[simp] theorem quad_y (c x y n : Nibble) : fieldY (quad c x y n) = y := by
  apply BitVec.eq_of_getLsbD_eq; intro i hi
  simp [fieldY, quad_bit, hi, show 4 + i < 8 by omega]

@[simp] theorem quad_n (c x y n : Nibble) : fieldN (quad c x y n) = n := by
  apply BitVec.eq_of_getLsbD_eq; intro i hi
  simp [fieldN, quad_bit, hi]

@[simp] theorem quad_nn (c x y n : Nibble) : fieldNN (quad c x y n) = y ++ n := by
  apply BitVec.eq_of_getLsbD_eq; intro i hi
  rw [nn_bit]
  simp [fieldNN, quad_bit, hi]

@[simp] theorem quad_nnn (c x y n : Nibble) : fieldNNN (quad c x y n) = x ++ y ++ n := by
  apply BitVec.eq_of_getLsbD_eq; intro i hi
  rw [nnn_bit]
  simp [fieldNNN, quad_bit, hi]

theorem quad_inj (c x y n c' x' y' n' : Nibble) : quad c x y n = quad c' x' y' n' ↔ c = c' ∧ x = x' ∧ y = y' ∧ n = n' := by
  constructor
  · intro h
    refine ⟨?_, ?_, ?_, ?_⟩
    · simpa using congrArg (·.extractLsb' 12 4) h
    · simpa using congrArg fieldX h
    · simpa using congrArg fieldY h
    · simpa using congrArg fieldN h
  · rintro ⟨rfl, rfl, rfl, rfl⟩; rfl

theorem quad_and (c x y n c' x' y' n' : Nibble) : quad c x y n &&& quad c' x' y' n' = quad (c &&& c') (x &&& x') (y &&& y') (n &&& n') := by
  apply BitVec.eq_of_getLsbD_eq; intro i hi
  simp only [BitVec.getLsbD_and, quad_bit]
  split
  · rfl
  split
  · rfl
  split <;> rfl

/-! ## Every word, byte and address is a row of nibbles -/

theorem word_quad (w : Word) : ∃ c x y n, w = quad c x y n :=
  ⟨w.extractLsb' 12 4, w.extractLsb' 8 4, w.extractLsb' 4 4, w.extractLsb' 0 4, by
    apply BitVec.eq_of_getLsbD_eq; intro i hi
    simp only [quad_bit, BitVec.getLsbD_extractLsb']
    by_cases h4 : i < 4
    · simp [h4]
    · by_cases h8 : i < 8
      · simp [h4, h8, show i - 4 < 4 by omega, show 4 + (i - 4) = i by omega]
      · by_cases h12 : i < 12
        · simp [h4, h8, h12, show i - 8 < 4 by omega, show 8 + (i - 8) = i by omega]
        · simp [h4, h8, h12, show i - 12 < 4 by omega, show 12 + (i - 12) = i by omega]⟩

theorem byte_pair (nn : Byte) : ∃ y n : Nibble, nn = y ++ n :=
  ⟨nn.extractLsb' 4 4, nn.extractLsb' 0 4, by
    apply BitVec.eq_of_getLsbD_eq; intro i hi
    rw [nn_bit]
    simp only [BitVec.getLsbD_extractLsb']
    by_cases h4 : i < 4
    · simp [h4]
    · simp [h4, show i - 4 < 4 by omega, show 4 + (i - 4) = i by omega]⟩

theorem addr_triple (nnn : Addr12) : ∃ x y n : Nibble, nnn = x ++ y ++ n :=
  ⟨nnn.extractLsb' 8 4, nnn.extractLsb' 4 4, nnn.extractLsb' 0 4, by
    apply BitVec.eq_of_getLsbD_eq; intro i hi
    rw [nnn_bit]
    simp only [BitVec.getLsbD_extractLsb']
    by_cases h4 : i < 4
    · simp [h4]
    · by_cases h8 : i < 8
      · simp [h4, h8, show i - 4 < 4 by omega, show 4 + (i - 4) = i by omega]
      · simp [h4, h8, show i - 8 < 4 by omega, show 8 + (i - 8) = i by omega]⟩

theorem byte_pair_eq (y n : Nibble) (nn : Byte) : (y ++ n : Byte) = nn ↔ y = nn.extractLsb' 4 4 ∧ n = nn.extractLsb' 0 4 := by
  obtain ⟨y', n', rfl⟩ := byte_pair nn
  have h1 : ∀ a b : Nibble, (a ++ b : Byte).extractLsb' 4 4 = a := fun a b => by
    apply BitVec.eq_of_getLsbD_eq; intro i hi; simp only [BitVec.getLsbD_extractLsb', nn_bit]; simp [hi]
  have h2 : ∀ a b : Nibble, (a ++ b : Byte).extractLsb' 0 4 = b := fun a b => by
    apply BitVec.eq_of_getLsbD_eq; intro i hi; simp only [BitVec.getLsbD_extractLsb', nn_bit]; simp [hi]
  rw [h1, h2]
  constructor
  · intro h; exact ⟨by rw [← h1 y n, h, h1], by rw [← h2 y n, h, h2]⟩
  · rintro ⟨rfl, rfl⟩; rfl

/-! ## Formats -/

theorem formatXYN_quad (c x y n : Nibble) : formatXYN c x y n = quad c x y n := rfl

theorem formatXB_quad (c x y n : Nibble) : formatXB c x (y ++ n) = quad c x y n := by
  apply BitVec.eq_of_getLsbD_eq; intro i hi
  have h1 : (formatXB c x (y ++ n)).getLsbD i = if i < 8 then (y ++ n : Byte).getLsbD i else (c ++ x : Byte).getLsbD (i - 8) := BitVec.getLsbD_append ..
  rw [h1, quad_bit, nn_bit, nn_bit]
  by_cases h4 : i < 4
  · simp [h4, show i < 8 by omega]
  · by_cases h8 : i < 8
    · simp [h4, h8]
    · simp only [h4, h8, if_false]
      by_cases h12 : i < 12
      · simp [h12, show i - 8 < 4 by omega]
      · simp [h12, show ¬ i - 8 < 4 by omega, show i - 8 - 4 = i - 12 by omega]

theorem formatXB_nn (c x : Nibble) (nn : Byte) : formatXB c x nn = quad c x (nn.extractLsb' 4 4) (nn.extractLsb' 0 4) := by
  obtain ⟨y, n, rfl⟩ := byte_pair nn
  rw [formatXB_quad]
  congr 1 <;> (apply BitVec.eq_of_getLsbD_eq; intro i hi; simp only [BitVec.getLsbD_extractLsb', nn_bit])
  · simp [hi]
  · simp [hi]

theorem formatA_quad (c x y n : Nibble) : formatA c (x ++ y ++ n) = quad c x y n := by
  apply BitVec.eq_of_getLsbD_eq; intro i hi
  have h1 : (formatA c (x ++ y ++ n)).getLsbD i = if i < 12 then (x ++ y ++ n : Addr12).getLsbD i else c.getLsbD (i - 12) := BitVec.getLsbD_append ..
  rw [h1, quad_bit, nnn_bit]
  by_cases h12 : i < 12
  · simp only [h12, if_true]
  · simp [h12, show ¬ i < 4 by omega, show ¬ i < 8 by omega]

/-! ## The table -/

@[simp] theorem nibble_and_F (x : Nibble) : x &&& 15#4 = x := by revert x; decide

/-- A property of every nibble is one of sixteen. -/
theorem nibble_cases {p : Nibble → Prop} (h : ∀ k, k < 16 → p (BitVec.ofNat 4 k)) (x : Nibble) : p x := by
  have := h x.toNat x.isLt
  simpa using this

/-- A row selects a word when each nibble does. -/
theorem OpRow.selects_quad (m : String) (c x y n pc px py pn mc mx my mn : Nibble) (b : Word → Instr) :
   OpRow.selects ⟨m, quad pc px py pn, quad mc mx my mn, b⟩ (quad c x y n) = ((c &&& mc) == pc && (x &&& mx) == px && (y &&& my) == py && (n &&& mn) == pn) := by
  rw [OpRow.selects, quad_and, Bool.eq_iff_iff]
  simp [quad_inj, and_assoc]

theorem rowsControlAndLoad_quad : rowsControlAndLoad =
  [ ⟨"CLS", quad 0x0 0x0 0xE 0x0, quad 0xF 0xF 0xF 0xF, fun _ => .cls⟩,
    ⟨"RET", quad 0x0 0x0 0xE 0xE, quad 0xF 0xF 0xF 0xF, fun _ => .ret⟩,
    ⟨"JP", quad 0x1 0x0 0x0 0x0, quad 0xF 0x0 0x0 0x0, fun w => .jp (fieldNNN w)⟩,
    ⟨"CALL", quad 0x2 0x0 0x0 0x0, quad 0xF 0x0 0x0 0x0, fun w => .call (fieldNNN w)⟩,
    ⟨"SE_IMM", quad 0x3 0x0 0x0 0x0, quad 0xF 0x0 0x0 0x0, fun w => .seImm (fieldX w) (fieldNN w)⟩,
    ⟨"SNE_IMM", quad 0x4 0x0 0x0 0x0, quad 0xF 0x0 0x0 0x0, fun w => .sneImm (fieldX w) (fieldNN w)⟩,
    ⟨"SE_REG", quad 0x5 0x0 0x0 0x0, quad 0xF 0x0 0x0 0xF, fun w => .seReg (fieldX w) (fieldY w)⟩,
    ⟨"SNE_REG", quad 0x9 0x0 0x0 0x0, quad 0xF 0x0 0x0 0xF, fun w => .sneReg (fieldX w) (fieldY w)⟩,
    ⟨"LD_IMM", quad 0x6 0x0 0x0 0x0, quad 0xF 0x0 0x0 0x0, fun w => .ldImm (fieldX w) (fieldNN w)⟩,
    ⟨"ADD_IMM", quad 0x7 0x0 0x0 0x0, quad 0xF 0x0 0x0 0x0, fun w => .addImm (fieldX w) (fieldNN w)⟩ ] := rfl

theorem rowsAlu_quad : rowsAlu =
  [ ⟨"LD_REG", quad 0x8 0x0 0x0 0x0, quad 0xF 0x0 0x0 0xF, fun w => .ldReg (fieldX w) (fieldY w)⟩,
    ⟨"OR", quad 0x8 0x0 0x0 0x1, quad 0xF 0x0 0x0 0xF, fun w => .orReg (fieldX w) (fieldY w)⟩,
    ⟨"AND", quad 0x8 0x0 0x0 0x2, quad 0xF 0x0 0x0 0xF, fun w => .andReg (fieldX w) (fieldY w)⟩,
    ⟨"XOR", quad 0x8 0x0 0x0 0x3, quad 0xF 0x0 0x0 0xF, fun w => .xorReg (fieldX w) (fieldY w)⟩,
    ⟨"ADD_REG", quad 0x8 0x0 0x0 0x4, quad 0xF 0x0 0x0 0xF, fun w => .addReg (fieldX w) (fieldY w)⟩,
    ⟨"SUB", quad 0x8 0x0 0x0 0x5, quad 0xF 0x0 0x0 0xF, fun w => .sub (fieldX w) (fieldY w)⟩,
    ⟨"SUBN", quad 0x8 0x0 0x0 0x7, quad 0xF 0x0 0x0 0xF, fun w => .subn (fieldX w) (fieldY w)⟩,
    ⟨"SHR", quad 0x8 0x0 0x0 0x6, quad 0xF 0x0 0x0 0xF, fun w => .shr (fieldX w) (fieldY w)⟩,
    ⟨"SHL", quad 0x8 0x0 0x0 0xE, quad 0xF 0x0 0x0 0xF, fun w => .shl (fieldX w) (fieldY w)⟩ ] := rfl

theorem rowsIndexAndEnvironment_quad : rowsIndexAndEnvironment =
  [ ⟨"LD_I", quad 0xA 0x0 0x0 0x0, quad 0xF 0x0 0x0 0x0, fun w => .ldI (fieldNNN w)⟩,
    ⟨"JP_OFF", quad 0xB 0x0 0x0 0x0, quad 0xF 0x0 0x0 0x0, fun w => .jpOff (fieldNNN w)⟩,
    ⟨"RND", quad 0xC 0x0 0x0 0x0, quad 0xF 0x0 0x0 0x0, fun w => .rnd (fieldX w) (fieldNN w)⟩,
    ⟨"DRW", quad 0xD 0x0 0x0 0x0, quad 0xF 0x0 0x0 0x0, fun w => .drw (fieldX w) (fieldY w) (fieldN w)⟩,
    ⟨"SKP", quad 0xE 0x0 0x9 0xE, quad 0xF 0x0 0xF 0xF, fun w => .skp (fieldX w)⟩,
    ⟨"SKNP", quad 0xE 0x0 0xA 0x1, quad 0xF 0x0 0xF 0xF, fun w => .sknp (fieldX w)⟩,
    ⟨"LD_VX_DT", quad 0xF 0x0 0x0 0x7, quad 0xF 0x0 0xF 0xF, fun w => .ldVxDt (fieldX w)⟩,
    ⟨"LD_DT_VX", quad 0xF 0x0 0x1 0x5, quad 0xF 0x0 0xF 0xF, fun w => .ldDtVx (fieldX w)⟩,
    ⟨"LD_ST_VX", quad 0xF 0x0 0x1 0x8, quad 0xF 0x0 0xF 0xF, fun w => .ldStVx (fieldX w)⟩,
    ⟨"ADD_I", quad 0xF 0x0 0x1 0xE, quad 0xF 0x0 0xF 0xF, fun w => .addI (fieldX w)⟩,
    ⟨"LD_VX_KEY", quad 0xF 0x0 0x0 0xA, quad 0xF 0x0 0xF 0xF, fun w => .ldVxKey (fieldX w)⟩,
    ⟨"LD_FONT", quad 0xF 0x0 0x2 0x9, quad 0xF 0x0 0xF 0xF, fun w => .ldFont (fieldX w)⟩,
    ⟨"BCD", quad 0xF 0x0 0x3 0x3, quad 0xF 0x0 0xF 0xF, fun w => .bcd (fieldX w)⟩,
    ⟨"ST_REGS", quad 0xF 0x0 0x5 0x5, quad 0xF 0x0 0xF 0xF, fun w => .stRegs (fieldX w)⟩,
    ⟨"LD_REGS", quad 0xF 0x0 0x6 0x5, quad 0xF 0x0 0xF 0xF, fun w => .ldRegs (fieldX w)⟩ ] := rfl

/-- A property of every row is one of the three lists of rows. -/
theorem rows_forall (p : OpRow → Prop) : (∀ r ∈ opcodeRows, p r) ↔ (∀ r ∈ rowsControlAndLoad, p r) ∧ (∀ r ∈ rowsAlu, p r) ∧ (∀ r ∈ rowsIndexAndEnvironment, p r) := by
  simp only [opcodeRows, List.mem_append, or_imp, forall_and, and_assoc]

/-- No word selects two rows: any two patterns differ in a bit that both masks keep (R65). -/
theorem opcodeRows_disjoint : opcodeRows.Pairwise (fun r r' => (r.pattern ^^^ r'.pattern) &&& (r.mask &&& r'.mask) ≠ 0) := by decide

end Sys2Proof
end

