-- ==== Sys2Proof/Laws/PerInstr.lean ====
section
/-! SUPPORT. The family `EncodeRow`, one lemma per constructor: the word of an instruction selects a row of R66 whose operands are the instruction's. -/

namespace Sys2Proof.Laws.EncodeRow

/-- Some row of the table selects the word of the instruction and builds the instruction from it; an unimplemented word is its own word. -/
def Statement (i : Instr) : Prop :=
  (∃ r ∈ opcodeRows, r.selects (encode i) = true ∧ r.build (encode i) = i) ∨ ∃ w, i = .unimpl w ∧ encode i = w

/-- Row k, when it selects the word and builds the instruction. -/
theorem of_row {i : Instr} (k : Nat) (hk : k < opcodeRows.length) (hs : (opcodeRows[k]).selects (encode i) = true)
    (hb : (opcodeRows[k]).build (encode i) = i) : Statement i :=
  Or.inl ⟨opcodeRows[k], List.getElem_mem hk, hs, hb⟩

theorem cls : Statement .cls := of_row 0 (by decide) (by decide) rfl

theorem ret : Statement .ret := of_row 1 (by decide) (by decide) rfl

theorem jp (nnn : Addr12) : Statement (.jp nnn) := by
  obtain ⟨x, y, n, rfl⟩ := addr_triple nnn
  have he : encode (.jp (x ++ y ++ n)) = quad 0x1 x y n := formatA_quad ..
  refine of_row 2 (by decide) ?_ ?_ <;> rw [he]
  · exact (OpRow.selects_quad "JP" 0x1 x y n 0x1 0x0 0x0 0x0 0xF 0x0 0x0 0x0 _).trans (by simp)
  · exact congrArg Instr.jp (quad_nnn ..)

theorem call (nnn : Addr12) : Statement (.call nnn) := by
  obtain ⟨x, y, n, rfl⟩ := addr_triple nnn
  have he : encode (.call (x ++ y ++ n)) = quad 0x2 x y n := formatA_quad ..
  refine of_row 3 (by decide) ?_ ?_ <;> rw [he]
  · exact (OpRow.selects_quad "CALL" 0x2 x y n 0x2 0x0 0x0 0x0 0xF 0x0 0x0 0x0 _).trans (by simp)
  · exact congrArg Instr.call (quad_nnn ..)

theorem seImm (x : Reg) (nn : Byte) : Statement (.seImm x nn) := by
  obtain ⟨y, n, rfl⟩ := byte_pair nn
  have he : encode (.seImm x (y ++ n)) = quad 0x3 x y n := formatXB_quad ..
  refine of_row 4 (by decide) ?_ ?_ <;> rw [he]
  · exact (OpRow.selects_quad "SE_IMM" 0x3 x y n 0x3 0x0 0x0 0x0 0xF 0x0 0x0 0x0 _).trans (by simp)
  · exact congrArg₂ Instr.seImm (quad_x ..) (quad_nn ..)

theorem sneImm (x : Reg) (nn : Byte) : Statement (.sneImm x nn) := by
  obtain ⟨y, n, rfl⟩ := byte_pair nn
  have he : encode (.sneImm x (y ++ n)) = quad 0x4 x y n := formatXB_quad ..
  refine of_row 5 (by decide) ?_ ?_ <;> rw [he]
  · exact (OpRow.selects_quad "SNE_IMM" 0x4 x y n 0x4 0x0 0x0 0x0 0xF 0x0 0x0 0x0 _).trans (by simp)
  · exact congrArg₂ Instr.sneImm (quad_x ..) (quad_nn ..)

theorem seReg (x y : Reg) : Statement (.seReg x y) := by
  have he : encode (.seReg x y) = quad 0x5 x y 0x0 := formatXYN_quad ..
  refine of_row 6 (by decide) ?_ ?_ <;> rw [he]
  · exact (OpRow.selects_quad "SE_REG" 0x5 x y 0x0 0x5 0x0 0x0 0x0 0xF 0x0 0x0 0xF _).trans (by simp)
  · exact congrArg₂ Instr.seReg (quad_x ..) (quad_y ..)

theorem sneReg (x y : Reg) : Statement (.sneReg x y) := by
  have he : encode (.sneReg x y) = quad 0x9 x y 0x0 := formatXYN_quad ..
  refine of_row 7 (by decide) ?_ ?_ <;> rw [he]
  · exact (OpRow.selects_quad "SNE_REG" 0x9 x y 0x0 0x9 0x0 0x0 0x0 0xF 0x0 0x0 0xF _).trans (by simp)
  · exact congrArg₂ Instr.sneReg (quad_x ..) (quad_y ..)

theorem ldImm (x : Reg) (nn : Byte) : Statement (.ldImm x nn) := by
  obtain ⟨y, n, rfl⟩ := byte_pair nn
  have he : encode (.ldImm x (y ++ n)) = quad 0x6 x y n := formatXB_quad ..
  refine of_row 8 (by decide) ?_ ?_ <;> rw [he]
  · exact (OpRow.selects_quad "LD_IMM" 0x6 x y n 0x6 0x0 0x0 0x0 0xF 0x0 0x0 0x0 _).trans (by simp)
  · exact congrArg₂ Instr.ldImm (quad_x ..) (quad_nn ..)

theorem addImm (x : Reg) (nn : Byte) : Statement (.addImm x nn) := by
  obtain ⟨y, n, rfl⟩ := byte_pair nn
  have he : encode (.addImm x (y ++ n)) = quad 0x7 x y n := formatXB_quad ..
  refine of_row 9 (by decide) ?_ ?_ <;> rw [he]
  · exact (OpRow.selects_quad "ADD_IMM" 0x7 x y n 0x7 0x0 0x0 0x0 0xF 0x0 0x0 0x0 _).trans (by simp)
  · exact congrArg₂ Instr.addImm (quad_x ..) (quad_nn ..)

theorem ldReg (x y : Reg) : Statement (.ldReg x y) := by
  have he : encode (.ldReg x y) = quad 0x8 x y 0x0 := formatXYN_quad ..
  refine of_row 10 (by decide) ?_ ?_ <;> rw [he]
  · exact (OpRow.selects_quad "LD_REG" 0x8 x y 0x0 0x8 0x0 0x0 0x0 0xF 0x0 0x0 0xF _).trans (by simp)
  · exact congrArg₂ Instr.ldReg (quad_x ..) (quad_y ..)

theorem orReg (x y : Reg) : Statement (.orReg x y) := by
  have he : encode (.orReg x y) = quad 0x8 x y 0x1 := formatXYN_quad ..
  refine of_row 11 (by decide) ?_ ?_ <;> rw [he]
  · exact (OpRow.selects_quad "OR" 0x8 x y 0x1 0x8 0x0 0x0 0x1 0xF 0x0 0x0 0xF _).trans (by simp)
  · exact congrArg₂ Instr.orReg (quad_x ..) (quad_y ..)

theorem andReg (x y : Reg) : Statement (.andReg x y) := by
  have he : encode (.andReg x y) = quad 0x8 x y 0x2 := formatXYN_quad ..
  refine of_row 12 (by decide) ?_ ?_ <;> rw [he]
  · exact (OpRow.selects_quad "AND" 0x8 x y 0x2 0x8 0x0 0x0 0x2 0xF 0x0 0x0 0xF _).trans (by simp)
  · exact congrArg₂ Instr.andReg (quad_x ..) (quad_y ..)

theorem xorReg (x y : Reg) : Statement (.xorReg x y) := by
  have he : encode (.xorReg x y) = quad 0x8 x y 0x3 := formatXYN_quad ..
  refine of_row 13 (by decide) ?_ ?_ <;> rw [he]
  · exact (OpRow.selects_quad "XOR" 0x8 x y 0x3 0x8 0x0 0x0 0x3 0xF 0x0 0x0 0xF _).trans (by simp)
  · exact congrArg₂ Instr.xorReg (quad_x ..) (quad_y ..)

theorem addReg (x y : Reg) : Statement (.addReg x y) := by
  have he : encode (.addReg x y) = quad 0x8 x y 0x4 := formatXYN_quad ..
  refine of_row 14 (by decide) ?_ ?_ <;> rw [he]
  · exact (OpRow.selects_quad "ADD_REG" 0x8 x y 0x4 0x8 0x0 0x0 0x4 0xF 0x0 0x0 0xF _).trans (by simp)
  · exact congrArg₂ Instr.addReg (quad_x ..) (quad_y ..)

theorem sub (x y : Reg) : Statement (.sub x y) := by
  have he : encode (.sub x y) = quad 0x8 x y 0x5 := formatXYN_quad ..
  refine of_row 15 (by decide) ?_ ?_ <;> rw [he]
  · exact (OpRow.selects_quad "SUB" 0x8 x y 0x5 0x8 0x0 0x0 0x5 0xF 0x0 0x0 0xF _).trans (by simp)
  · exact congrArg₂ Instr.sub (quad_x ..) (quad_y ..)

theorem subn (x y : Reg) : Statement (.subn x y) := by
  have he : encode (.subn x y) = quad 0x8 x y 0x7 := formatXYN_quad ..
  refine of_row 16 (by decide) ?_ ?_ <;> rw [he]
  · exact (OpRow.selects_quad "SUBN" 0x8 x y 0x7 0x8 0x0 0x0 0x7 0xF 0x0 0x0 0xF _).trans (by simp)
  · exact congrArg₂ Instr.subn (quad_x ..) (quad_y ..)

theorem shr (x y : Reg) : Statement (.shr x y) := by
  have he : encode (.shr x y) = quad 0x8 x y 0x6 := formatXYN_quad ..
  refine of_row 17 (by decide) ?_ ?_ <;> rw [he]
  · exact (OpRow.selects_quad "SHR" 0x8 x y 0x6 0x8 0x0 0x0 0x6 0xF 0x0 0x0 0xF _).trans (by simp)
  · exact congrArg₂ Instr.shr (quad_x ..) (quad_y ..)

theorem shl (x y : Reg) : Statement (.shl x y) := by
  have he : encode (.shl x y) = quad 0x8 x y 0xE := formatXYN_quad ..
  refine of_row 18 (by decide) ?_ ?_ <;> rw [he]
  · exact (OpRow.selects_quad "SHL" 0x8 x y 0xE 0x8 0x0 0x0 0xE 0xF 0x0 0x0 0xF _).trans (by simp)
  · exact congrArg₂ Instr.shl (quad_x ..) (quad_y ..)

theorem ldI (nnn : Addr12) : Statement (.ldI nnn) := by
  obtain ⟨x, y, n, rfl⟩ := addr_triple nnn
  have he : encode (.ldI (x ++ y ++ n)) = quad 0xA x y n := formatA_quad ..
  refine of_row 19 (by decide) ?_ ?_ <;> rw [he]
  · exact (OpRow.selects_quad "LD_I" 0xA x y n 0xA 0x0 0x0 0x0 0xF 0x0 0x0 0x0 _).trans (by simp)
  · exact congrArg Instr.ldI (quad_nnn ..)

theorem jpOff (nnn : Addr12) : Statement (.jpOff nnn) := by
  obtain ⟨x, y, n, rfl⟩ := addr_triple nnn
  have he : encode (.jpOff (x ++ y ++ n)) = quad 0xB x y n := formatA_quad ..
  refine of_row 20 (by decide) ?_ ?_ <;> rw [he]
  · exact (OpRow.selects_quad "JP_OFF" 0xB x y n 0xB 0x0 0x0 0x0 0xF 0x0 0x0 0x0 _).trans (by simp)
  · exact congrArg Instr.jpOff (quad_nnn ..)

theorem rnd (x : Reg) (nn : Byte) : Statement (.rnd x nn) := by
  obtain ⟨y, n, rfl⟩ := byte_pair nn
  have he : encode (.rnd x (y ++ n)) = quad 0xC x y n := formatXB_quad ..
  refine of_row 21 (by decide) ?_ ?_ <;> rw [he]
  · exact (OpRow.selects_quad "RND" 0xC x y n 0xC 0x0 0x0 0x0 0xF 0x0 0x0 0x0 _).trans (by simp)
  · exact congrArg₂ Instr.rnd (quad_x ..) (quad_nn ..)

theorem drw (x y : Reg) (n : Nibble) : Statement (.drw x y n) := by
  have he : encode (.drw x y n) = quad 0xD x y n := formatXYN_quad ..
  refine of_row 22 (by decide) ?_ ?_ <;> rw [he]
  · exact (OpRow.selects_quad "DRW" 0xD x y n 0xD 0x0 0x0 0x0 0xF 0x0 0x0 0x0 _).trans (by simp)
  · show Instr.drw _ _ _ = _
    rw [quad_x, quad_y, quad_n]

theorem skp (x : Reg) : Statement (.skp x) := by
  have he : encode (.skp x) = quad 0xE x 0x9 0xE := formatXB_nn ..
  refine of_row 23 (by decide) ?_ ?_ <;> rw [he]
  · exact (OpRow.selects_quad "SKP" 0xE x 0x9 0xE 0xE 0x0 0x9 0xE 0xF 0x0 0xF 0xF _).trans (by simp)
  · exact congrArg Instr.skp (quad_x ..)

theorem sknp (x : Reg) : Statement (.sknp x) := by
  have he : encode (.sknp x) = quad 0xE x 0xA 0x1 := formatXB_nn ..
  refine of_row 24 (by decide) ?_ ?_ <;> rw [he]
  · exact (OpRow.selects_quad "SKNP" 0xE x 0xA 0x1 0xE 0x0 0xA 0x1 0xF 0x0 0xF 0xF _).trans (by simp)
  · exact congrArg Instr.sknp (quad_x ..)

theorem ldVxDt (x : Reg) : Statement (.ldVxDt x) := by
  have he : encode (.ldVxDt x) = quad 0xF x 0x0 0x7 := formatXB_nn ..
  refine of_row 25 (by decide) ?_ ?_ <;> rw [he]
  · exact (OpRow.selects_quad "LD_VX_DT" 0xF x 0x0 0x7 0xF 0x0 0x0 0x7 0xF 0x0 0xF 0xF _).trans (by simp)
  · exact congrArg Instr.ldVxDt (quad_x ..)

theorem ldDtVx (x : Reg) : Statement (.ldDtVx x) := by
  have he : encode (.ldDtVx x) = quad 0xF x 0x1 0x5 := formatXB_nn ..
  refine of_row 26 (by decide) ?_ ?_ <;> rw [he]
  · exact (OpRow.selects_quad "LD_DT_VX" 0xF x 0x1 0x5 0xF 0x0 0x1 0x5 0xF 0x0 0xF 0xF _).trans (by simp)
  · exact congrArg Instr.ldDtVx (quad_x ..)

theorem ldStVx (x : Reg) : Statement (.ldStVx x) := by
  have he : encode (.ldStVx x) = quad 0xF x 0x1 0x8 := formatXB_nn ..
  refine of_row 27 (by decide) ?_ ?_ <;> rw [he]
  · exact (OpRow.selects_quad "LD_ST_VX" 0xF x 0x1 0x8 0xF 0x0 0x1 0x8 0xF 0x0 0xF 0xF _).trans (by simp)
  · exact congrArg Instr.ldStVx (quad_x ..)

theorem addI (x : Reg) : Statement (.addI x) := by
  have he : encode (.addI x) = quad 0xF x 0x1 0xE := formatXB_nn ..
  refine of_row 28 (by decide) ?_ ?_ <;> rw [he]
  · exact (OpRow.selects_quad "ADD_I" 0xF x 0x1 0xE 0xF 0x0 0x1 0xE 0xF 0x0 0xF 0xF _).trans (by simp)
  · exact congrArg Instr.addI (quad_x ..)

theorem ldVxKey (x : Reg) : Statement (.ldVxKey x) := by
  have he : encode (.ldVxKey x) = quad 0xF x 0x0 0xA := formatXB_nn ..
  refine of_row 29 (by decide) ?_ ?_ <;> rw [he]
  · exact (OpRow.selects_quad "LD_VX_KEY" 0xF x 0x0 0xA 0xF 0x0 0x0 0xA 0xF 0x0 0xF 0xF _).trans (by simp)
  · exact congrArg Instr.ldVxKey (quad_x ..)

theorem ldFont (x : Reg) : Statement (.ldFont x) := by
  have he : encode (.ldFont x) = quad 0xF x 0x2 0x9 := formatXB_nn ..
  refine of_row 30 (by decide) ?_ ?_ <;> rw [he]
  · exact (OpRow.selects_quad "LD_FONT" 0xF x 0x2 0x9 0xF 0x0 0x2 0x9 0xF 0x0 0xF 0xF _).trans (by simp)
  · exact congrArg Instr.ldFont (quad_x ..)

theorem bcd (x : Reg) : Statement (.bcd x) := by
  have he : encode (.bcd x) = quad 0xF x 0x3 0x3 := formatXB_nn ..
  refine of_row 31 (by decide) ?_ ?_ <;> rw [he]
  · exact (OpRow.selects_quad "BCD" 0xF x 0x3 0x3 0xF 0x0 0x3 0x3 0xF 0x0 0xF 0xF _).trans (by simp)
  · exact congrArg Instr.bcd (quad_x ..)

theorem stRegs (x : Reg) : Statement (.stRegs x) := by
  have he : encode (.stRegs x) = quad 0xF x 0x5 0x5 := formatXB_nn ..
  refine of_row 32 (by decide) ?_ ?_ <;> rw [he]
  · exact (OpRow.selects_quad "ST_REGS" 0xF x 0x5 0x5 0xF 0x0 0x5 0x5 0xF 0x0 0xF 0xF _).trans (by simp)
  · exact congrArg Instr.stRegs (quad_x ..)

theorem ldRegs (x : Reg) : Statement (.ldRegs x) := by
  have he : encode (.ldRegs x) = quad 0xF x 0x6 0x5 := formatXB_nn ..
  refine of_row 33 (by decide) ?_ ?_ <;> rw [he]
  · exact (OpRow.selects_quad "LD_REGS" 0xF x 0x6 0x5 0xF 0x0 0x6 0x5 0xF 0x0 0xF 0xF _).trans (by simp)
  · exact congrArg Instr.ldRegs (quad_x ..)

theorem unimpl (w : Word) : Statement (.unimpl w) := Or.inr ⟨w, rfl, rfl⟩

end Sys2Proof.Laws.EncodeRow
end

