-- ==== Sys2Proof/Laws/Step.lean ====
section
/-! SUPPORT. What each meaning answers when its operations succeed or fault, the fetch, and the inversion of the step: later proofs cite these
and do not unfold `exec`, `fetch` or `step`. -/

namespace Sys2Proof.Machine

/-! ## Meanings that can fault -/

theorem execRet_ok (s : State) (h : 0 < s.sp) :
    execRet s = .next { s with pc := s.entry (s.sp - 1), sp := s.sp - 1 } := by
  simp only [execRet, pop_ok s h]; rfl

theorem execRet_fault (s : State) (h : s.sp = 0) : execRet s = .next (s.raise .stackUnderflow 0) := by
  simp only [execRet, pop_error s h]

theorem execCall_ok (nnn : Addr12) (s : State) (h : s.sp < 128) :
    execCall nnn s = .next { s with stack := s.stack.setIfInBounds s.sp s.pc, sp := s.sp + 1, pc := zext16 nnn } := by
  simp only [execCall, push_ok s _ h]; rfl

theorem execCall_fault (nnn : Addr12) (s : State) (h : 128 ≤ s.sp) :
    execCall nnn s = .next (s.raise .stackOverflow s.pc.toNat) := by
  simp only [execCall, push_error s _ h]

theorem execBcd_ok (x : Reg) (s : State) (h : s.ea 2 < 4096) :
    execBcd x s = .next { s with mem := s.mem.writeBytes (s.ea 0) (decimalDigits (s.getV x)) } := by
  have h2 : s.ea 0 + (decimalDigits (s.getV x)).length ≤ 4096 := by
    simp only [State.ea, decimalDigits, List.length_cons, List.length_nil] at h ⊢; omega
  simp only [execBcd, storeBytes_ok _ s _ h2, finish]

theorem execBcd_fault (x : Reg) (s : State) (k : Nat) (hk : k ≤ 2) (hout : 4096 ≤ s.ea k) (hin : ∀ j, j < k → s.ea j < 4096) :
    execBcd x s = .next (({ s with mem := s.mem.writeBytes (s.ea 0) ((decimalDigits (s.getV x)).take k) } : State).raise .memOob (s.ea k)) := by
  rw [execBcd, storeBytes_error _ s _ k (by simp [decimalDigits]; omega) (by simpa [State.ea] using hout)
    (fun j hj => by simpa [State.ea] using hin j hj)]
  simp [finish, State.ea]

@[simp] theorem regBlock_length (s : State) (x : Reg) : (regBlock s x).length = x.toNat + 1 := by
  simp [regBlock]

/-- The k-th byte of the block that `FX55` stores is V[k]. -/
theorem regBlock_getD (s : State) (x r : Reg) (h : r.toNat ≤ x.toNat) : (regBlock s x).getD r.toNat 0 = s.getV r := by
  have hlt : r.toNat < (List.range (x.toNat + 1)).length := by simp; omega
  have : BitVec.ofNat 4 r.toNat = r := by simp
  simp [regBlock, List.getD_eq_getElem?_getD, List.getElem?_map, List.getElem?_range (by omega : r.toNat < x.toNat + 1), this]

theorem execStRegs_ok (x : Reg) (s : State) (h : s.ea x.toNat < 4096) :
    execStRegs x s = .next (advanceIndex { s with mem := s.mem.writeBytes (s.ea 0) (regBlock s x) } x) := by
  have h2 : s.ea 0 + (regBlock s x).length ≤ 4096 := by rw [regBlock_length]; simp only [State.ea] at h ⊢; omega
  simp only [execStRegs, storeBytes_ok _ s _ h2]

theorem execStRegs_fault (x : Reg) (s : State) (k : Nat) (hk : k ≤ x.toNat) (hout : 4096 ≤ s.ea k) (hin : ∀ j, j < k → s.ea j < 4096) :
    execStRegs x s = .next (({ s with mem := s.mem.writeBytes (s.ea 0) ((regBlock s x).take k) } : State).raise .memOob (s.ea k)) := by
  rw [execStRegs, storeBytes_error _ s _ k (by rw [regBlock_length]; omega) (by simpa [State.ea] using hout)
    (fun j hj => by simpa [State.ea] using hin j hj)]
  simp [State.ea]

theorem execLdRegs_ok (x : Reg) (s : State) (h : s.ea x.toNat < 4096) :
    ∃ t : State, execLdRegs x s = .next (advanceIndex t x) ∧ t = { s with v := t.v } ∧
      ∀ r : Reg, t.getV r = if r.toNat ≤ x.toNat then s.mem.read (s.ea r.toNat) else s.getV r := by
  have hx := x.isLt
  obtain ⟨t, ht, hf, hv⟩ := loadRegs_ok (x.toNat + 1) s (s.ea 0) 0
    (fun m hm => by simp only [State.ea] at h ⊢; omega) (by omega)
  refine ⟨t, by simp only [execLdRegs, ht], hf, fun r => ?_⟩
  rw [hv]
  by_cases hr : r.toNat ≤ x.toNat
  · rw [if_pos (by omega), if_pos hr]; rfl
  · rw [if_neg (by omega), if_neg hr]

theorem execLdRegs_fault (x : Reg) (s : State) (k : Nat) (hk : k ≤ x.toNat) (hout : 4096 ≤ s.ea k) (hin : ∀ j, j < k → s.ea j < 4096) :
    ∃ t : State, execLdRegs x s = .next (t.raise .memOob (s.ea k)) ∧ t = { s with v := t.v } ∧
      ∀ r : Reg, t.getV r = if r.toNat < k then s.mem.read (s.ea r.toNat) else s.getV r := by
  have hx := x.isLt
  obtain ⟨t, ht, he⟩ := loadRegs_error (x.toNat + 1) s (s.ea 0) 0 k (by omega) (by simpa [State.ea] using hout)
    (fun m hm => by simpa [State.ea] using hin m hm)
  obtain ⟨t', ht', hf, hv⟩ := loadRegs_ok k s (s.ea 0) 0 (fun m hm => by simpa [State.ea] using hin m hm) (by omega)
  rw [ht] at ht'
  cases ht'
  refine ⟨t, by simp only [execLdRegs, he]; rfl, hf, fun r => ?_⟩
  rw [hv]
  by_cases hr : r.toNat < k
  · rw [if_pos (by omega), if_pos hr]; rfl
  · rw [if_neg (by omega), if_neg hr]

/-- `DXYN` when every row inside the bottom clip has its byte in memory. -/
theorem execDrw_ok (x y : Reg) (n : Nibble) (s : State)
    (hm : ∀ r, r < n.toNat → drawRow s y + r < 32 → s.ea r < 4096) :
    ∃ (hit : Bool) (t : State), execDrw x y n s = .next (t.setV regVF (flagByte hit)) ∧ t = { s with fb := t.fb, dirty := t.dirty } ∧
      (∀ r c, r < 32 → c < 64 → t.fb.get r c = (s.fb.get r c ^^ spriteBit s (drawColumn s x) (drawRow s y) n.toNat r c)) ∧
      t.dirty = (s.dirty || decide (0 < n.toNat)) ∧
      (hit = true ↔ ∃ r c, r < 32 ∧ c < 64 ∧ s.fb.get r c = true ∧ spriteBit s (drawColumn s x) (drawRow s y) n.toNat r c = true) := by
  have hx : drawColumn s x < 64 := Nat.mod_lt _ (by omega)
  have hy : drawRow s y < 32 := Nat.mod_lt _ (by omega)
  obtain ⟨hit, t, ht, hf, hc, hd, hh⟩ := drawRows_ok (drawColumn s x) (drawRow s y) hx n.toNat 0 false s
    (fun r _ h2 h3 => hm r (by omega) h3)
  refine ⟨hit, t, ?_, hf, fun r c hr hc' => ?_, ?_, ?_⟩
  · rw [drawColumn, drawRow, ← List.range_eq_range'] at ht
    simp only [execDrw, ht]
  · rw [hc r c hr hc', spriteRowsBit_zero]
  · rw [hd]; simp [hy]
  · rw [hh]; simp [spriteRowsBit_zero]

/-- `DXYN` when row k is the first inside the bottom clip with its byte outside memory. -/
theorem execDrw_fault (x y : Reg) (n : Nibble) (s : State) (k : Nat) (hk : k < n.toNat) (hrow : drawRow s y + k < 32)
    (hout : 4096 ≤ s.ea k) (hin : ∀ j, j < k → s.ea j < 4096) :
    ∃ t : State, execDrw x y n s = .next (t.raise .memOob (s.ea k)) ∧ t = { s with fb := t.fb, dirty := t.dirty } ∧
      (∀ r c, r < 32 → c < 64 → t.fb.get r c = (s.fb.get r c ^^ spriteBit s (drawColumn s x) (drawRow s y) k r c)) ∧
      t.dirty = (s.dirty || decide (0 < k)) := by
  have hx : drawColumn s x < 64 := Nat.mod_lt _ (by omega)
  have hy : drawRow s y < 32 := Nat.mod_lt _ (by omega)
  obtain ⟨hit, t, ht, he⟩ := drawRows_error (drawColumn s x) (drawRow s y) n.toNat 0 k false s hk
    (by simpa using hrow) (by simpa using hout) (fun m hm => by simpa using hin m hm)
  obtain ⟨hit', t', ht', hf, hc, hd, _⟩ := drawRows_ok (drawColumn s x) (drawRow s y) hx k 0 false s
    (fun r _ h2 _ => hin r (by omega))
  rw [ht] at ht'
  cases ht'
  refine ⟨t, ?_, hf, fun r c hr hc' => ?_, ?_⟩
  · rw [drawColumn, drawRow, ← List.range_eq_range', Nat.zero_add] at he
    simp only [execDrw, he]
  · rw [hc r c hr hc', spriteRowsBit_zero]
  · rw [hd]; simp [hy]

/-- A draw either has every byte it needs in memory or has a first row that has not. -/
theorem draw_cases (s : State) (y0 n : Nat) :
    (∀ r, r < n → y0 + r < 32 → s.ea r < 4096) ∨
      ∃ k, k < n ∧ y0 + k < 32 ∧ 4096 ≤ s.ea k ∧ ∀ j, j < k → s.ea j < 4096 := by
  by_cases h : ∀ r, r < n → y0 + r < 32 → s.ea r < 4096
  · exact Or.inl h
  · right
    obtain ⟨r, hr⟩ := not_forall.mp h
    have h1 : r < n ∧ y0 + r < 32 ∧ 4096 ≤ s.ea r := by
      refine ⟨?_, ?_, ?_⟩ <;> by_contra hc <;> exact hr (fun a b => by omega)
    simp only [State.ea] at h1 ⊢
    exact ⟨4096 - s.i.toNat, by omega, by omega, by omega, fun j hj => by omega⟩

/-- Of k transfers from I on, either all fit or one is the first that does not. -/
theorem transfer_cases (s : State) (n : Nat) :
    s.ea n < 4096 ∨ ∃ k, k ≤ n ∧ 4096 ≤ s.ea k ∧ ∀ j, j < k → s.ea j < 4096 := by
  by_cases h : s.ea n < 4096
  · exact Or.inl h
  · right
    simp only [State.ea] at h ⊢
    exact ⟨4096 - s.i.toNat, by omega, by omega, fun j hj => by omega⟩

/-! ## Fetch -/

theorem fetch_ok (s : State) (h : s.pc.toNat ≤ 0x0FFE) :
    fetch s = .ok (wordOfBytes (s.mem.read s.pc.toNat) (s.mem.read (s.pc.toNat + 1))) := by
  simp only [fetch, loadByte_ok s (by omega : s.pc.toNat < 4096), loadByte_ok s (by omega : s.pc.toNat + 1 < 4096)]

theorem fetch_error (s : State) (h : 0x0FFF ≤ s.pc.toNat) :
    fetch s = .error (s.raise .memOob (if s.pc.toNat = 0x0FFF then 0x1000 else s.pc.toNat)) := by
  by_cases he : s.pc.toNat = 0x0FFF
  · simp only [fetch, loadByte_ok s (by omega : s.pc.toNat < 4096), loadByte_error s (by omega : 4096 ≤ s.pc.toNat + 1)]
    rw [he]; rfl
  · simp only [fetch, loadByte_error s (by omega : 4096 ≤ s.pc.toNat), he, if_false]

/-! ## The step -/

/-- All that can follow a step that did not fault: the iteration ends with line 5, or the host fails before the sound sample, after it, or
after line 5. -/
theorem afterStep_cases {s : State} (h : s.faulted = false) :
    s.afterStep = s.soundPhase.emit .hostStep ∨ s.afterStep = (s.ticks s.turn.ticksAfter).raise .hostError 0 ∨
      s.afterStep = s.soundPhase.raise .hostError 0 ∨ s.afterStep = (s.soundPhase.emit .hostStep).raise .hostError 0 := by
  cases he : s.turn.hostError <;> simp [State.afterStep, h, he]

/-- After a step that faulted nothing follows. -/
theorem afterStep_faulted {s : State} (h : s.faulted = true) : s.afterStep = s := by simp [State.afterStep, h]

/-- Every way in which a step can answer a next state: the run ends at the stop poll, the host fails, the fetch faults, or the decoded
instruction runs. -/
theorem step_cases {s t : State} (h : step s = .next t) :
    s.faulted = false ∧ s.ended = false ∧
    ((s.turn.stopReq = true ∧ t = s.endRun) ∨
     (s.turn.stopReq = false ∧ s.turn.hostError = .beforeStep ∧ t = (s.drawPhase.raise .hostError 0).endTurn) ∨
     (s.turn.stopReq = false ∧ s.turn.hostError ≠ .beforeStep ∧ 0x0FFF ≤ s.pc.toNat ∧
       t = (s.drawPhase.raise .memOob (if s.pc.toNat = 0x0FFF then 0x1000 else s.pc.toNat)).endTurn) ∨
     (s.turn.stopReq = false ∧ s.turn.hostError ≠ .beforeStep ∧ s.pc.toNat ≤ 0x0FFE ∧
       ∃ u, exec (decode (wordOfBytes (s.mem.read s.pc.toNat) (s.mem.read (s.pc.toNat + 1)))) (s.drawPhase.setPc (s.pc + 2)) = .next u ∧
         t = u.afterStep.endTurn)) := by
  unfold step iteration at h
  cases hf : s.faulted
  case true => simp [hf] at h
  case false =>
  cases he : s.ended
  case true => simp [hf, he] at h
  case false =>
  refine ⟨rfl, rfl, ?_⟩
  cases hs : s.turn.stopReq
  case true =>
    simp only [hf, he, hs, Bool.false_eq_true, if_false, if_true, Host.Outcome.next.injEq] at h
    exact Or.inl ⟨rfl, h.symm⟩
  case false =>
  by_cases hh : s.turn.hostError = .beforeStep
  · simp only [hf, he, hs, hh, Bool.false_eq_true, if_false, if_true, Host.Outcome.next.injEq] at h
    exact Or.inr (Or.inl ⟨rfl, hh, h.symm⟩)
  simp only [hf, he, hs, hh, Bool.false_eq_true, if_false] at h
  by_cases hp : s.pc.toNat ≤ 0x0FFE
  · rw [fetch_ok s.drawPhase hp] at h
    refine Or.inr (Or.inr (Or.inr ⟨rfl, hh, hp, ?_⟩))
    simp only [State.drawPhase_mem, State.drawPhase_pc] at h
    split at h
    · rename_i u hu
      simp only [Host.Outcome.next.injEq] at h
      exact ⟨u, hu, h.symm⟩
    · cases h
    · cases h
  · rw [fetch_error s.drawPhase (by simp; omega)] at h
    simp only [Host.Outcome.next.injEq] at h
    exact Or.inr (Or.inr (Or.inl ⟨rfl, hh, by omega, h.symm⟩))

end Sys2Proof.Machine
end

