-- ==== Sys2Proof/Tests/Slice0.lean ====
section
/-! SUPPORT. The model's own tests, with expected values from `spec/95_test_vectors.md` (the vector's id stands before each) or from the rules'
own examples, and for each obligation with hypotheses a concrete input that meets them. -/

namespace Sys2Proof.Tests

open Sys2Proof Sys2Proof.Machine

/-! ## Small states -/

/-- The state after reset, with the host idle in the first iteration. -/
def start : State := State.reset.withQuietTurns 1

/-- One step from the state as it is. -/
def next (s : State) : State :=
  match step s with
  | .next t => t
  | .fault _ => { s with ended := true }
  | .refused _ => { s with ended := true }

/-- One step that runs the word given, from `pc` (0x0200 unless set); a step that answers no next state leaves `ended` set. -/
def after (s : State) (w : Nat) : State :=
  next (s.withFetchWord 16 w)

/-- The fault status with which a step is refused, if it is. -/
def halt (s : State) : Option (Cause × Word) :=
  match step s with
  | .fault (.halted c i) => some (c, i)
  | .fault .runEnded => none
  | .next _ => none
  | .refused _ => none

/-- Whether a step answers a next state. -/
def takesStep (s : State) : Bool :=
  match step s with
  | .next _ => true
  | .fault _ => false
  | .refused _ => false

/-- Bytes stored. -/
def poke (s : State) (a : Nat) (bs : List Byte) : State := { s with mem := s.mem.writeBytes a bs }

/-- The registers from V0 on. -/
def regs (s : State) (bs : List (Reg × Byte)) : State := bs.foldl (fun s p => s.setV p.1 p.2) s

/-- The toggles. -/
def toggled (s : State) (a b c : Bool) : State := { s with toggles := ⟨a, b, c⟩ }

/-- Keys held and the random byte in the next iteration. -/
def inputs (keys : BitVec 16) (rand : Byte) (s : State) : State :=
  { s with turns := [{ HostTurn.quiet with keys := keys, rand := rand }] }

/-! ## Well-formedness: an ill-formed term for each check -/

theorem test_wf_refuses_class_0 : (Instr.unimpl 0x00E0).wf = false ∧ (Instr.unimpl 0x00EE).wf = false ∧ (Instr.unimpl 0x00E1).wf = true := by decide
theorem test_wf_refuses_class_1 : (Instr.unimpl 0x1234).wf = false ∧ (Instr.unimpl 0xD012).wf = false := by decide
theorem test_wf_refuses_class_5 : (Instr.unimpl 0x5120).wf = false ∧ (Instr.unimpl 0x5121).wf = true := by decide
theorem test_wf_refuses_class_8 : (Instr.unimpl 0x812E).wf = false ∧ (Instr.unimpl 0x812F).wf = true := by decide
theorem test_wf_refuses_class_9 : (Instr.unimpl 0x9120).wf = false ∧ (Instr.unimpl 0x9121).wf = true := by decide
theorem test_wf_refuses_class_E : (Instr.unimpl 0xE59E).wf = false ∧ (Instr.unimpl 0xE5A0).wf = true := by decide
theorem test_wf_refuses_class_F : (Instr.unimpl 0xF265).wf = false ∧ (Instr.unimpl 0xF266).wf = true := by decide

/-! ## Decoding: a word written out from R66 for every constructor -/

theorem test_decode_control : decode 0x00E0 = .cls ∧ decode 0x00EE = .ret ∧ decode 0x1ABC = .jp 0xABC ∧ decode 0x2300 = .call 0x300 ∧
    decode 0x332A = .seImm 3 0x2A ∧ decode 0x432B = .sneImm 3 0x2B ∧ decode 0x5120 = .seReg 1 2 ∧ decode 0x9120 = .sneReg 1 2 ∧
    decode 0xB2F0 = .jpOff 0x2F0 := by decide
theorem test_decode_load_alu : decode 0x6A7F = .ldImm 0xA 0x7F ∧ decode 0x7202 = .addImm 2 0x02 ∧ decode 0x8AF0 = .ldReg 0xA 0xF ∧
    decode 0x8121 = .orReg 1 2 ∧ decode 0x8122 = .andReg 1 2 ∧ decode 0x8123 = .xorReg 1 2 ∧ decode 0x8124 = .addReg 1 2 ∧
    decode 0x8125 = .sub 1 2 ∧ decode 0x8126 = .shr 1 2 ∧ decode 0x8127 = .subn 1 2 ∧ decode 0x812E = .shl 1 2 := by decide
theorem test_decode_index_memory : decode 0xABCD = .ldI 0xBCD ∧ decode 0xF21E = .addI 2 ∧ decode 0xF429 = .ldFont 4 ∧ decode 0xF033 = .bcd 0 ∧
    decode 0xF255 = .stRegs 2 ∧ decode 0xF265 = .ldRegs 2 := by decide
theorem test_decode_display_environment : decode 0xD012 = .drw 0 1 2 ∧ decode 0xC30F = .rnd 3 0x0F ∧ decode 0xE59E = .skp 5 ∧
    decode 0xE5A1 = .sknp 5 ∧ decode 0xF207 = .ldVxDt 2 ∧ decode 0xF30A = .ldVxKey 3 ∧ decode 0xF215 = .ldDtVx 2 ∧ decode 0xF218 = .ldStVx 2 := by decide
theorem test_decode_unimplemented : decode 0x00E1 = .unimpl 0x00E1 ∧ decode 0x01E0 = .unimpl 0x01E0 ∧ decode 0x0ABC = .unimpl 0x0ABC ∧
    decode 0x8AF8 = .unimpl 0x8AF8 ∧ decode 0x9121 = .unimpl 0x9121 ∧ decode 0xE5A0 = .unimpl 0xE5A0 ∧ decode 0xFFFF = .unimpl 0xFFFF := by decide
/-- F1: the high byte comes first; one byte alone is refused by name. -/
theorem test_decode_bytes : decodeBytes [0x12, 0x34, 0x56] = .ok (.jp 0x234, [0x56]) ∧ decodeBytes [0x12] = .error .truncated ∧
    encodeBytes (.jp 0x234) = [0x12, 0x34] := by decide

/-! ## Fetch -/

/-- F3, F7. -/
theorem test_fetch_last_and_odd : (after { start with pc := 0x0FFE } 0x6011).getV 0 = 0x11 ∧ (after { start with pc := 0x0FFE } 0x6011).pc = 0x1000 ∧
    (after { start with pc := 0x0201 } 0x6A7F).pc = 0x0203 := by decide
/-- F4, F5, F6: the reported address and the unchanged `pc`. -/
theorem test_fetch_outside : (next { start with pc := 0x0FFF }).info = 0x1000 ∧ (next { start with pc := 0x0FFF }).pc = 0x0FFF ∧
    (next { start with pc := 0x1000 }).info = 0x1000 ∧ (next { start with pc := 0x10FE }).info = 0x10FE := by decide
/-- F8: no step after a fault. -/
theorem test_no_step_after_fault : halt (start.raise .stackUnderflow 0) = some (.stackUnderflow, 0) := by simp [halt, step, iteration, State.raise]

/-! ## Control transfer -/

/-- C2, C3. -/
theorem test_jp : (after start 0x1FFF).pc = 0x0FFF ∧ (after start 0x1201).pc = 0x0201 := by decide
set_option maxRecDepth 4000 in
/-- C5, C6. -/
theorem test_call : (after { start with sp := 127 } 0x2300).entry 127 = 0x0202 ∧ (after { start with sp := 127 } 0x2300).sp = 128 ∧
    (after { start with sp := 127 } 0x2300).pc = 0x0300 := by decide
theorem test_call_overflow : (after { start with sp := 128 } 0x2300).cause = .stackOverflow ∧ (after { start with sp := 128 } 0x2300).info = 0x0202 ∧
    (after { start with sp := 128 } 0x2300).pc = 0x0202 ∧ (after { start with sp := 128 } 0x2300).sp = 128 := by decide
/-- C7, C8. -/
theorem test_ret : (after { start with sp := 2, stack := (start.stack.set 0 0x0300).set 1 0x0400 } 0x00EE).pc = 0x0400 ∧
    (after { start with sp := 2, stack := (start.stack.set 0 0x0300).set 1 0x0400 } 0x00EE).sp = 1 := by decide
theorem test_ret_underflow : (after start 0x00EE).cause = .stackUnderflow ∧ (after start 0x00EE).info = 0 ∧ (after start 0x00EE).pc = 0x0202 := by decide
/-- S5 and C9 to C13, both branches. -/
theorem test_se_imm : (after (regs start [(1, 7)]) 0x3107).pc = 0x0204 ∧ (after (regs start [(1, 7)]) 0x3108).pc = 0x0202 := by decide
theorem test_sne_imm : (after (regs start [(1, 7)]) 0x4107).pc = 0x0202 ∧ (after (regs start [(1, 7)]) 0x4108).pc = 0x0204 := by decide
theorem test_se_reg : (after (regs start [(1, 7), (2, 7)]) 0x5120).pc = 0x0204 ∧ (after (regs start [(1, 7), (2, 8)]) 0x5120).pc = 0x0202 := by decide
theorem test_sne_reg : (after (regs start [(1, 7), (2, 7)]) 0x9120).pc = 0x0202 ∧ (after (regs start [(1, 7), (2, 8)]) 0x9120).pc = 0x0204 := by decide
/-- C15, C16; C17, C18. -/
theorem test_jp_off : (after (toggled (regs start [(0, 4), (3, 0x10)]) false true false) 0xB300).pc = 0x0304 ∧
    (after (regs start [(0, 4), (3, 0x10)]) 0xB300).pc = 0x0310 := by decide
theorem test_jp_off_top : (after (toggled (regs start [(0, 0xFF)]) false true false) 0xBFFF).pc = 0x10FE ∧
    (after (regs start [(15, 2)]) 0xBFFF).pc = 0x1001 := by decide

/-! ## Load and arithmetic -/

/-- A1, A2. -/
theorem test_ld_imm : (after start 0x6A7F).getV 10 = 0x7F ∧ (after start 0x6FFF).getV 15 = 0xFF := by decide
/-- A3, A5. -/
theorem test_add_imm : (after (regs start [(2, 0xFF)]) 0x7202).getV 2 = 1 ∧ (after (regs start [(2, 0xFF)]) 0x7202).getV 15 = 0 ∧
    (after (regs start [(15, 0xFF)]) 0x7F01).getV 15 = 0 := by decide
/-- A6. -/
theorem test_ld_reg : (after (regs start [(5, 0x33)]) 0x8450).getV 4 = 0x33 := by decide
/-- A7, A8, A9: VF keeps 0x55. -/
theorem test_or : (after (regs start [(1, 0x0F), (2, 0xF0), (15, 0x55)]) 0x8121).getV 1 = 0xFF ∧
    (after (regs start [(1, 0x0F), (2, 0xF0), (15, 0x55)]) 0x8121).getV 15 = 0x55 := by decide
theorem test_and : (after (regs start [(1, 0x3C), (2, 0x0F), (15, 0x55)]) 0x8122).getV 1 = 0x0C ∧
    (after (regs start [(1, 0x3C), (2, 0x0F), (15, 0x55)]) 0x8122).getV 15 = 0x55 := by decide
theorem test_xor : (after (regs start [(1, 0xFF), (2, 0x0F), (15, 0x55)]) 0x8123).getV 1 = 0xF0 ∧
    (after (regs start [(1, 0xFF), (2, 0x0F), (15, 0x55)]) 0x8123).getV 15 = 0x55 := by decide
/-- S6 (the source's own vector); A15, A16. -/
theorem test_add_reg : (after (regs start [(1, 0xFF), (2, 1)]) 0x8124).getV 1 = 0 ∧ (after (regs start [(1, 0xFF), (2, 1)]) 0x8124).getV 15 = 1 := by decide
theorem test_add_reg_vf : (after (regs start [(15, 0xFF), (1, 1)]) 0x8F14).getV 15 = 1 ∧ (after (regs start [(1, 0x10), (15, 1)]) 0x81F4).getV 1 = 0x11 ∧
    (after (regs start [(1, 0x10), (15, 1)]) 0x81F4).getV 15 = 0 := by decide
/-- S6 (the source's own vector), A18; A23. -/
theorem test_sub : (after (regs start [(1, 1), (2, 2)]) 0x8125).getV 1 = 0xFF ∧ (after (regs start [(1, 1), (2, 2)]) 0x8125).getV 15 = 0 ∧
    (after start 0x8125).getV 15 = 1 := by decide
theorem test_sub_vf : (after (regs start [(15, 3), (1, 5)]) 0x8F15).getV 15 = 0 := by decide
/-- A27, A26. -/
theorem test_subn : (after (regs start [(1, 0x10), (2, 1)]) 0x8127).getV 1 = 0xF1 ∧ (after (regs start [(1, 0x10), (2, 1)]) 0x8127).getV 15 = 0 ∧
    (after (regs start [(1, 1), (2, 0x10)]) 0x8127).getV 1 = 0x0F ∧ (after (regs start [(1, 1), (2, 0x10)]) 0x8127).getV 15 = 1 := by decide
/-- A30, A31; A35. -/
theorem test_shr : (after (regs start [(1, 5), (2, 0x80)]) 0x8126).getV 1 = 2 ∧ (after (regs start [(1, 5), (2, 0x80)]) 0x8126).getV 15 = 1 ∧
    (after (regs start [(15, 2)]) 0x8F06).getV 15 = 0 := by decide
theorem test_shr_legacy : (after (toggled (regs start [(1, 5), (2, 0x80)]) true false false) 0x8126).getV 1 = 0x40 ∧
    (after (toggled (regs start [(1, 5), (2, 0x80)]) true false false) 0x8126).getV 15 = 0 ∧
    (after (toggled (regs start [(1, 5), (2, 0x80)]) true false false) 0x8126).getV 2 = 0x80 := by decide
/-- A37, A38; A41. -/
theorem test_shl : (after (regs start [(1, 0x81), (2, 1)]) 0x812E).getV 1 = 2 ∧ (after (regs start [(1, 0x81), (2, 1)]) 0x812E).getV 15 = 1 ∧
    (after (regs start [(15, 0xC0)]) 0x8F0E).getV 15 = 1 := by decide
theorem test_shl_legacy : (after (toggled (regs start [(1, 0x81), (2, 1)]) true false false) 0x812E).getV 1 = 2 ∧
    (after (toggled (regs start [(1, 0x81), (2, 1)]) true false false) 0x812E).getV 15 = 0 := by decide

/-! ## Index and memory -/

/-- M1. -/
theorem test_ld_i : (after { start with i := 0xFFFF } 0xAFFF).i = 0x0FFF := by decide
/-- M3, M5; M7, M9. -/
theorem test_add_i : (after (regs { start with i := 0x0300 } [(2, 5), (15, 1)]) 0xF21E).getV 15 = 1 ∧
    (after (regs { start with i := 0x0FFF } [(2, 0)]) 0xF21E).getV 15 = 0 ∧ (after (regs { start with i := 0x0FFF } [(2, 1)]) 0xF21E).getV 15 = 1 := by decide
theorem test_add_i_wrap : (after (regs { start with i := 0xFFFF } [(2, 1)]) 0xF21E).i = 0 ∧
    (after (regs { start with i := 0xFFFF } [(2, 1)]) 0xF21E).getV 15 = 1 ∧ (after (regs { start with i := 0x0FF0 } [(15, 0x20)]) 0xFF1E).i = 0x1010 := by decide
/-- M12, M13; M14. -/
theorem test_ld_font : (after (regs start [(4, 0x0A)]) 0xF429).i = 0x0082 ∧ (after (regs start [(4, 0x0F)]) 0xF429).i = 0x009B := by decide
theorem test_ld_font_range : (after (regs { start with i := 0x0123 } [(4, 0x10)]) 0xF429).cause = .glyphRange ∧
    (after (regs { start with i := 0x0123 } [(4, 0x10)]) 0xF429).info = 0x0010 ∧ (after (regs { start with i := 0x0123 } [(4, 0x10)]) 0xF429).i = 0x0123 := by decide
/-- M18; M21. -/
theorem test_bcd : ((after (regs { start with i := 0x0300 } [(0, 254)]) 0xF033).mem.read 0x300 = 2) ∧
    ((after (regs { start with i := 0x0300 } [(0, 254)]) 0xF033).mem.read 0x301 = 5) ∧
    ((after (regs { start with i := 0x0300 } [(0, 254)]) 0xF033).mem.read 0x302 = 4) := by decide
theorem test_bcd_fault : ((after (regs { start with i := 0x0FFE } [(0, 123)]) 0xF033).mem.read 0xFFE = 1) ∧
    ((after (regs { start with i := 0x0FFE } [(0, 123)]) 0xF033).mem.read 0xFFF = 2) ∧
    (after (regs { start with i := 0x0FFE } [(0, 123)]) 0xF033).info = 0x1000 := by decide
/-- The example of R124 under both settings; M25 in small. -/
theorem test_st_regs : ((after (regs { start with i := 0x0400 } [(0, 0x11), (1, 0x22), (2, 0x33)]) 0xF255).mem.read 0x402 = 0x33) ∧
    (after (regs { start with i := 0x0400 } [(0, 0x11)]) 0xF255).i = 0x0400 ∧
    (after (toggled (regs { start with i := 0x0400 } [(0, 0x11)]) false false true) 0xF255).i = 0x0403 := by decide
theorem test_st_regs_fault : ((after (toggled (regs { start with i := 0x0FFF } [(0, 0xA0), (1, 0xA1)]) false false true) 0xF155).mem.read 0xFFF = 0xA0) ∧
    (after (toggled (regs { start with i := 0x0FFF } [(0, 0xA0), (1, 0xA1)]) false false true) 0xF155).info = 0x1000 ∧
    (after (toggled (regs { start with i := 0x0FFF } [(0, 0xA0), (1, 0xA1)]) false false true) 0xF155).i = 0x0FFF := by decide
/-- M26; M27. -/
theorem test_ld_regs : (after (poke (regs { start with i := 0x0400 } [(3, 0x99)]) 0x400 [0x11, 0x22, 0x33]) 0xF265).getV 0 = 0x11 ∧
    (after (poke (regs { start with i := 0x0400 } [(3, 0x99)]) 0x400 [0x11, 0x22, 0x33]) 0xF265).getV 2 = 0x33 ∧
    (after (poke (regs { start with i := 0x0400 } [(3, 0x99)]) 0x400 [0x11, 0x22, 0x33]) 0xF265).getV 3 = 0x99 := by decide
theorem test_ld_regs_fault : (after (poke (regs { start with i := 0x0FFF } [(1, 0x77)]) 0xFFF [0x5A]) 0xF165).getV 0 = 0x5A ∧
    (after (poke (regs { start with i := 0x0FFF } [(1, 0x77)]) 0xFFF [0x5A]) 0xF165).getV 1 = 0x77 ∧
    (after (poke (regs { start with i := 0x0FFF } [(1, 0x77)]) 0xFFF [0x5A]) 0xF165).info = 0x1000 := by decide

/-! ## Display -/

/-- D1, D2. -/
theorem test_cls : ((after { start with fb := start.fb.put 3 4 true } 0x00E0).fb.get 3 4 = false) ∧ (after start 0x00E0).dirty = true := by decide
/-- D9: one cell set, one cleared. -/
theorem test_drw_collision :
    ((after (poke { start with i := 0x0300, fb := start.fb.put 0 1 true } 0x300 [0xC0]) 0xD011).fb.get 0 0 = true) ∧
    ((after (poke { start with i := 0x0300, fb := start.fb.put 0 1 true } 0x300 [0xC0]) 0xD011).fb.get 0 1 = false) ∧
    (after (poke { start with i := 0x0300, fb := start.fb.put 0 1 true } 0x300 [0xC0]) 0xD011).getV 15 = 1 := by decide
/-- D14: the first row is drawn, the second faults, VF keeps its value. -/
theorem test_drw_fault : ((after (poke (regs { start with i := 0x0FFF } [(15, 9)]) 0xFFF [0x80]) 0xD012).fb.get 0 0 = true) ∧
    (after (poke (regs { start with i := 0x0FFF } [(15, 9)]) 0xFFF [0x80]) 0xD012).info = 0x1000 ∧
    (after (poke (regs { start with i := 0x0FFF } [(15, 9)]) 0xFFF [0x80]) 0xD012).getV 15 = 9 := by decide

/-! ## Keypad, timers, random, unimplemented words -/

/-- K1, K2. -/
theorem test_rnd : (after (inputs 0 0xB7 start) 0xC30F).getV 3 = 0x07 ∧ (after (inputs 0 0xB7 start) 0xC300).getV 3 = 0 := by decide
/-- K4, K5; K9. -/
theorem test_skp : (after (inputs 0x0400 0 (regs start [(5, 0x0A)])) 0xE59E).pc = 0x0204 ∧ (after (regs start [(5, 0x0A)]) 0xE59E).pc = 0x0202 := by decide
theorem test_skp_range : (after (regs start [(5, 0x10)]) 0xE59E).cause = .keyRange ∧ (after (regs start [(5, 0x10)]) 0xE59E).info = 0x0010 := by decide
/-- K6, K7; K10. -/
theorem test_sknp : (after (inputs 0x0400 0 (regs start [(5, 0x0A)])) 0xE5A1).pc = 0x0202 ∧ (after (regs start [(5, 0x0A)]) 0xE5A1).pc = 0x0204 := by decide
theorem test_sknp_range : (after (regs start [(5, 0xFF)]) 0xE5A1).cause = .keyRange ∧ (after (regs start [(5, 0xFF)]) 0xE5A1).info = 0x00FF := by decide
/-- K11, K12, K13. -/
theorem test_ld_vx_dt : (after { start with dt := 0x3C } 0xF207).getV 2 = 0x3C ∧ (after { start with dt := 0x3C } 0xF207).dt = 0x3C := by decide
theorem test_ld_dt_vx : (after (regs start [(2, 0x3C)]) 0xF215).dt = 0x3C := by decide
theorem test_ld_st_vx : (after (regs start [(2, 5)]) 0xF218).st = 5 ∧ (after (regs start [(2, 5)]) 0xF218).sounding = true := by decide
/-- K14; K15, K17. -/
theorem test_ld_vx_key_wait : (after (regs start [(3, 0x77)]) 0xF30A).pc = 0x0200 ∧ (after (regs start [(3, 0x77)]) 0xF30A).getV 3 = 0x77 := by decide
theorem test_ld_vx_key : (after (inputs 0x0210 0 start) 0xF30A).getV 3 = 4 ∧ (after (inputs 0x0210 0 start) 0xF30A).pc = 0x0202 ∧
    (after (inputs 0x8000 0 start) 0xF30A).getV 3 = 0x0F := by decide
/-- R171: the word reported between the draw and the host's event, newest first. -/
theorem test_unimpl : (after start 0x8AF8).events = [.hostStep, .report 0x8AF8, .draw false] ∧ (after start 0x8AF8).pc = 0x0202 := by decide
/-- K19, K20. -/
theorem test_tick : ({ start with dt := 0xFF, st := 3 } : State).tick.dt = 0xFE ∧ ({ start with dt := 0xFF, st := 3 } : State).tick.st = 2 ∧
    start.tick.dt = 0 ∧ start.tick.st = 0 := by decide

/-! ## Witnesses: inputs that meet the hypotheses of an obligation, each clause at a boundary -/

/-- The next iteration's turn. -/
def turned (t : HostTurn) (s : State) : State := { s with turns := [t] }

/-- DecodeAfterEncode, WordSelectsItsRow (a word with a row, a word with none), UnimplementedWordReports. -/
theorem witness_encoding : (Instr.unimpl 0xFFFF).wf = true ∧ (Instr.jp 0xFFF).wf = true ∧
    (∃ r ∈ opcodeRows, r.selects 0x1FFF = true) ∧ (∀ r ∈ opcodeRows, r.selects 0xFFFF = false) ∧ unimplementedWord 0xFFFF = true := by decide
/-- A turn in which the host fails at the point given, and nothing else happens. -/
def failing (f : HostFailure) : State := turned { HostTurn.quiet with hostError := f } start

/-- StepRunsTheDecodedInstruction, at the first and at the last address a word can be fetched from, and where the host fails after the step. -/
theorem witness_step : start.running ∧ start.hostLetsRun ∧ start.pc.toNat ≤ 0x0FFE ∧ (start.setPc 0x0FFE).running ∧ (start.setPc 0x0FFE).hostLetsRun ∧
    (start.setPc 0x0FFE).pc.toNat ≤ 0x0FFE ∧ decode (wordOfBytes (start.mem.read 0x0FFE) (start.mem.read 0x0FFF)) = .unimpl 0 ∧
    (failing .afterStep).running ∧ (failing .afterStep).hostLetsRun := by
  unfold State.running State.hostLetsRun; decide
/-- AroundTheInstruction: a faulted state; the three outcomes of the sound sample; a failure at each point, and ticks on both sides of the sample. -/
theorem witness_around : (start.raise .hostError 0).faulted = true ∧ start.faulted = false ∧ start.afterStep.sounding = start.sounding ∧
    (start.sounding = false ∧ (start.setSt 1).afterStep.sounding = true) ∧
    ({ start with sounding := true } : State).afterStep.sounding = false ∧
    (failing .afterStep).faulted = false ∧ (failing .afterStep).turn.hostError = .afterStep ∧
    (failing .afterSample).faulted = false ∧ (failing .afterSample).turn.hostError = .afterSample ∧
    (failing .afterHostStep).faulted = false ∧ (failing .afterHostStep).turn.hostError = .afterHostStep ∧
    (turned { HostTurn.quiet with ticksAfter := 1, ticksLast := 1 } (start.setSt 2)).afterStep.sounding = true ∧
    (turned { HostTurn.quiet with ticksAfter := 1, ticksLast := 1 } (start.setSt 1)).afterStep.sounding = false := by decide
/-- FetchOutsideMemoryFaults, both reported addresses. -/
theorem witness_fetch : (start.setPc 0x0FFF).running ∧ (start.setPc 0x0FFF).hostLetsRun ∧ 0x0FFF ≤ (start.setPc 0x0FFF).pc.toNat ∧
    (start.setPc 0x1000).running ∧ (start.setPc 0x1000).hostLetsRun ∧ 0x0FFF ≤ (start.setPc 0x1000).pc.toNat := by
  unfold State.running State.hostLetsRun; decide
/-- StoppedMachineTakesNoStep, both clauses. -/
theorem witness_stopped : (start.raise .memOob 0x1000).faulted = true ∧ ({ start with ended := true } : State).faulted = false ∧
    ({ start with ended := true } : State).ended = true := by decide
/-- StopRequestEndsTheRun, with no tick and with one before the poll. -/
theorem witness_stop : (turned { HostTurn.quiet with stopReq := true } start).running ∧ (turned { HostTurn.quiet with stopReq := true } start).turn.stopReq = true ∧
    (turned { HostTurn.quiet with stopReq := true, ticksBefore := 1 } start).running ∧
    (turned { HostTurn.quiet with stopReq := true, ticksBefore := 1 } start).turn.stopReq = true := by
  unfold State.running; decide
/-- HostErrorEndsTheRun, before the step and at each point after it; the instruction run there does not fault. -/
theorem witness_host_error : (failing .beforeStep).running ∧ (failing .beforeStep).turn.stopReq = false ∧ (failing .beforeStep).turn.hostError = .beforeStep ∧
    (failing .afterStep).running ∧ (failing .afterSample).running ∧ (failing .afterHostStep).running ∧
    (failing .afterStep).turn.hostError = .afterStep ∧ (failing .afterSample).turn.hostError = .afterSample ∧
    (failing .afterHostStep).turn.hostError = .afterHostStep ∧ (failing .afterHostStep).turn.stopReq = false ∧ (failing .afterHostStep).pc.toNat ≤ 0x0FFE ∧
    decode (wordOfBytes ((failing .afterHostStep).mem.read 0x0200) ((failing .afterHostStep).mem.read 0x0201)) = .unimpl 0 ∧
    (((failing .afterHostStep).drawPhase.setPc 0x0202).emit (.report 0)).faulted = false := by
  unfold State.running; decide
/-- HostErrorEndsTheRun: what the instruction of `witness_host_error` leaves. -/
theorem witness_host_error_exec : exec (.unimpl 0) ((failing .afterHostStep).drawPhase.setPc 0x0202) =
    .next (((failing .afterHostStep).drawPhase.setPc 0x0202).emit (.report 0)) := rfl
/-- R192: a failure during `play_sound` ends the run with the event emitted and no further draw; one during the host's `step()` after that event. -/
theorem test_host_failure_lands_late :
    (next (turned { HostTurn.quiet with hostError := .afterSample } (start.setSt 1))).events = [.playSound, .report 0, .draw false] ∧
    (next (turned { HostTurn.quiet with hostError := .afterSample } (start.setSt 1))).cause = .hostError ∧
    (next (failing .afterHostStep)).events = [.hostStep, .report 0, .draw false] ∧ (next (failing .afterHostStep)).faulted = true := by decide
/-- R196, R216: a tick after the last sample and before the ending stop poll leaves ST at 0 with SOUNDING still 1. -/
theorem test_tick_before_the_ending_poll :
    (next (turned { HostTurn.quiet with stopReq := true, ticksBefore := 1 } { start with st := 1, sounding := true })).st = 0 ∧
    (next (turned { HostTurn.quiet with stopReq := true, ticksBefore := 1 } { start with st := 1, sounding := true })).sounding = true ∧
    (next (turned { HostTurn.quiet with stopReq := true, ticksBefore := 1 } { start with st := 1, sounding := true })).ended = true := by decide
/-- SkipsOnRegister: an N other than 0. -/
theorem witness_skip_reg : (0xF : Nibble) ≠ 0x0#4 ∧ (0x1 : Nibble) ≠ 0x0#4 := by decide
/-- PlacedWordIsRunNext and StoreIsSeenByTheNextFetch, at the last address; an address outside the word. -/
theorem witness_placed : (State.reset.setPc 0x0FFE).running ∧ (State.reset.setPc 0x0FFE).pc.toNat ≤ 0x0FFE ∧ 0xFFFF < 65536 ∧
    0x0FFD ≠ (State.reset.setPc 0x0FFE).pc.toNat ∧ 0x0FFD ≠ (State.reset.setPc 0x0FFE).pc.toNat + 1 := by
  unfold State.running; decide
/-- ProgramLoad, the longest image and one byte more. -/
theorem witness_load : (List.replicate 3584 (0 : Byte)).length ≤ 3584 ∧ 3584 < (List.replicate 3585 (0 : Byte)).length :=
  ⟨Nat.le_of_eq List.length_replicate, by rw [List.length_replicate]; omega⟩
/-- CanonicalMemoryIsItsBytes and StepKeepsMemoryCanonical: a memory that lists a byte, and a step from it. -/
theorem witness_canonical : Memory.wf [(0x300, 1)] = true ∧ (poke start 0x300 [1]).mem = [(0x300, 1)] ∧
    takesStep (poke start 0x300 [1]) = true := by decide
/-- PushAndPop, CallPushesAndJumps, ReturnPopsPc, ReturnAfterCallRestoresPc: SP at 0, 1, 127 and 128. -/
theorem witness_stack : start.sp = 0 ∧ ({ start with sp := 1 } : State).sp ≠ 0 ∧ ({ start with sp := 127 } : State).sp < 128 ∧
    ({ start with sp := 128 } : State).sp ≤ 128 ∧ ({ start with sp := 128 } : State).sp = 128 := by decide
/-- ReturnAfterCallRestoresPc: the state after the call is such a `u`; StackIsLastInFirstOut: the values of S3, and a stack filled to the top. -/
theorem witness_lifo : (after { start with sp := 127 } 0x2300).sp = 128 ∧ start.sp + ([5, 10, 1, 0, 50] : List Word).length ≤ 128 ∧
    ({ start with sp := 123 } : State).sp + ([5, 10, 1, 0, 50] : List Word).length ≤ 128 := by decide
/-- AddSetsCarry, SubtractSetsNoBorrow, ShiftsReportTheBitShiftedOut: a destination that is not VF; the shift source under each setting. -/
theorem witness_flags : (1 : Reg) ≠ regVF ∧ (2 : Reg) ≠ 1 ∧ (2 : Reg) ≠ regVF ∧
    (0x05 : Byte) = (if start.toggles.shiftLegacy then start.getV 2 else (start.setV 1 0x05).getV 1) ∧
    (0x80 : Byte) = (if (toggled start true false false).toggles.shiftLegacy then (start.setV 2 0x80).getV 2 else start.getV 1) := by decide
/-- FontAddressOfDigit, SkipsOnKey: 15 and 16. -/
theorem witness_ranges : ((start.setV 4 15).getV 4).toNat ≤ 15 ∧ 15 < ((start.setV 4 16).getV 4).toNat := by decide
/-- BcdStoresDigits: the last base that fits, and each of the three faults. -/
theorem witness_bcd : (start.setI 0x0FFD).ea 2 < 4096 ∧ (4096 ≤ (start.setI 0x0FFE).ea 2 ∧ ∀ j, j < 2 → (start.setI 0x0FFE).ea j < 4096) ∧
    (4096 ≤ (start.setI 0x0FFF).ea 1 ∧ ∀ j, j < 1 → (start.setI 0x0FFF).ea j < 4096) ∧
    (4096 ≤ (start.setI 0x1000).ea 0 ∧ ∀ j, j < 0 → (start.setI 0x1000).ea j < 4096) := by decide
/-- StoreRegisters, LoadRegisters, StoreThenLoadRestoresRegisters: sixteen bytes that just fit (M24), and the fault at the last (M25) and first. -/
theorem witness_transfer : (start.setI 0x0FF0).ea (15 : Reg).toNat < 4096 ∧
    (15 ≤ (15 : Reg).toNat ∧ 4096 ≤ (start.setI 0x0FF1).ea 15 ∧ ∀ j, j < 15 → (start.setI 0x0FF1).ea j < 4096) ∧
    (4096 ≤ (start.setI 0xFFFF).ea 0 ∧ ∀ j, j < 0 → (start.setI 0xFFFF).ea j < 4096) := by decide
/-- StoreThenLoadRestoresRegisters: the state after the store, with `I` as it was, is such a `u`. -/
theorem witness_round_trip : (after (start.setI 0x0FF0) 0xFF55).i = (start.setI 0x0FF0).i ∧ (start.setI 0x0FF0).ea (15 : Reg).toNat < 4096 := by decide
/-- XorIsItsOwnInverse: the last cell, and a row and a column outside. -/
theorem witness_xor : (31 < 32 ∧ 63 < 64) ∧ (32 ≤ 32 ∨ 64 ≤ 0) ∧ (32 ≤ 0 ∨ 64 ≤ 64) := by decide
/-- DrawXorsTheSprite, DrawTwiceRestoresTheScreen: a sprite in the last byte of memory, and one whose second row the bottom edge clips (D15). -/
theorem witness_draw : (∀ r, r < (1 : Nibble).toNat → drawRow (start.setI 0x0FFF) 1 + r < 32 → (start.setI 0x0FFF).ea r < 4096) ∧
    (∀ r, r < (2 : Nibble).toNat → drawRow ((start.setI 0x0FFF).setV 1 31) 1 + r < 32 → ((start.setI 0x0FFF).setV 1 31).ea r < 4096) := by decide
/-- DrawTwiceRestoresTheScreen: the state after a draw is such a `u`, and the sprite has a bit over a clear cell. -/
theorem witness_draw_twice : (after (poke (start.setI 0x0300) 0x300 [0x80]) 0xD011).mem.read 0x300 = 0x80 ∧
    (after (poke (start.setI 0x0300) 0x300 [0x80]) 0xD011).i = 0x0300 ∧ (after (poke (start.setI 0x0300) 0x300 [0x80]) 0xD011).getV 0 = 0 ∧
    start.fb.get 0 0 = false ∧ spriteBit (poke (start.setI 0x0300) 0x300 [0x80]) 0 0 1 0 0 = true := by decide
/-- DrawFaultsOutsideMemory: the second row (D14), and the first. -/
theorem witness_draw_fault : (1 < (2 : Nibble).toNat ∧ drawRow (start.setI 0x0FFF) 1 + 1 < 32 ∧ 4096 ≤ (start.setI 0x0FFF).ea 1 ∧
      ∀ j, j < 1 → (start.setI 0x0FFF).ea j < 4096) ∧
    (0 < (2 : Nibble).toNat ∧ drawRow (start.setI 0x1000) 1 + 0 < 32 ∧ 4096 ≤ (start.setI 0x1000).ea 0) := by decide
/-- KeyWaitTakesLeastOrRepeats: the lowest key, the highest alone, none. -/
theorem witness_key_wait : (inputs 0x8001 0 start).turn.keys.getLsbD 0 = true ∧
    ((inputs 0x8000 0 start).turn.keys.getLsbD 15 = true ∧ ∀ j, j < 15 → (inputs 0x8000 0 start).turn.keys.getLsbD j = false) ∧
    (inputs 0 0 start).turn.keys = 0 := by decide
/-- TickCommutesWithInstructions, TogglesAffectFiveInstructions: an instruction of each kind. -/
theorem witness_kinds : accessesTimer (.drw 0 1 2) = false ∧ readsToggle (.drw 0 1 2) = false ∧ accessesTimer (.shr 1 2) = false ∧ readsToggle (.skp 1) = false := by
  decide
/-- SoundSampleReportsEdges, each clause. -/
theorem witness_sound : (start.st = 0 ∧ start.sounding = false) ∧ ((start.setSt 0xFF).st ≠ 0 ∧ (start.setSt 0xFF).sounding = false) ∧
    (({ start with sounding := true } : State).st = 0 ∧ ({ start with sounding := true } : State).sounding = true) := by decide
/-- The invariants hold of `start`, and it takes a step. -/
theorem witness_invariants : start.soundCoherent ∧ start.pcAndStackInRange ∧ start.faultStatusCoherent ∧ takesStep start = true :=
  ⟨rfl, ⟨by decide, by decide, fun j h => absurd h (Nat.not_lt_zero j)⟩, ⟨by decide, by decide, by decide, by decide⟩, by decide⟩
/-- InstructionsRaiseOnlyTheirFaults: a step that faults from a state that is not faulted. -/
theorem witness_raise : start.faulted = false ∧ (after start 0x00EE).faulted = true ∧ (after (start.setV 5 16) 0xE59E).faulted = true := by decide
set_option maxRecDepth 4000 in
/-- WritersOfEachState: a step that writes each kind of state. -/
theorem witness_writers : ((after (regs (start.setI 0x0300) [(0, 1)]) 0xF055).mem.read 0x300 ≠ start.mem.read 0x300) ∧ (after start 0x00E0).dirty ≠ start.dirty ∧
    (after start 0x2300).sp ≠ start.sp ∧ (after start 0x2300).entry 0 ≠ start.entry 0 := by decide
theorem witness_writers_control : (after (start.setV 2 1) 0xF215).dt ≠ start.dt ∧ (after (start.setV 2 1) 0xF218).st ≠ start.st ∧
    (after start 0xA300).i ≠ start.i := by decide
/-- WritersOfEachState: V, `pc` and the fault status are written too. -/
theorem witness_writers_registers : (after start 0x6A7F).getV 0xA ≠ start.getV 0xA ∧ (after start 0x1234).pc ≠ start.pc + 2 ∧
    (after start 0x00EE).faulted ≠ start.faulted ∧ (after start 0x00EE).cause ≠ start.cause ∧ (after (start.setV 5 16) 0xE59E).info ≠ start.info := by decide
/-- HiddenStateIsNotRead: two states that differ in what is hidden. -/
theorem witness_hidden : (start.setSt 5).hide = start.hide ∧ (start.setSt 5).st ≠ start.st := by
  exact ⟨rfl, by decide⟩

end Sys2Proof.Tests
end

section
/-! SUPPORT. What an instruction does, said once: it computes, from the part of the state that an instruction can read, which fields it writes
and to which values (`Update`), and each field only within its rule (`Permitted`). The invariants and the noninterference statements of
`10_state.md` follow from this one theorem, `exec_performs`. -/

namespace Sys2Proof.Machine

/-! ## The part of a state that an instruction reads -/

/-- `u` with the fields of `s` that any instruction may read. What is left of `u`: DIRTY, SOUNDING, ST, the events, the fault status and `ended`,
which no instruction reads; DT and the toggles, which some do. -/
def State.onto (s u : State) : State :=
  { u with v := s.v, i := s.i, pc := s.pc, stack := s.stack, sp := s.sp, mem := s.mem, fb := s.fb, turns := s.turns, iter := s.iter }

theorem State.onto_self (s : State) : s.onto s = s := rfl

/-- A state is its registers' values. -/
theorem State.v_eq_of_getV {s t : State} (h : ∀ x, s.getV x = t.getV x) : s.v = t.v := by
  apply Vector.ext
  intro k hk
  have hx : (BitVec.ofNat 4 k).toNat = k := by rw [BitVec.toNat_ofNat]; omega
  simpa [State.getV, hx] using h (BitVec.ofNat 4 k)

/-! ## Updates -/

/-- The writes of one instruction: the new value of each field that is written. -/
structure Update where
  v : Option (Vector Byte 16) := none
  index : Option Word := none
  pc : Option Word := none
  /-- the stack array and SP -/
  calls : Option (Vector Word 128 × Nat) := none
  mem : Option Memory := none
  fb : Option Grid := none
  /-- DIRTY is set -/
  drawn : Bool := false
  dt : Option Byte := none
  st : Option Byte := none
  event : Option OutEvent := none
  /-- CAUSE and INFO of the fault raised -/
  fault : Option (Cause × Word) := none

/-- The state after the writes. -/
def Update.apply (U : Update) (s : State) : State :=
  { s with
    v := U.v.getD s.v
    i := U.index.getD s.i
    pc := U.pc.getD s.pc
    stack := (U.calls.map Prod.fst).getD s.stack
    sp := (U.calls.map Prod.snd).getD s.sp
    mem := U.mem.getD s.mem
    fb := U.fb.getD s.fb
    dirty := U.drawn || s.dirty
    dt := U.dt.getD s.dt
    st := U.st.getD s.st
    events := U.event.toList ++ s.events
    faulted := U.fault.isSome || s.faulted
    cause := (U.fault.map Prod.fst).getD s.cause
    info := (U.fault.map Prod.snd).getD s.info }

section
variable (U : Update) (s : State)

@[simp] theorem Update.apply_v : (U.apply s).v = U.v.getD s.v := rfl
@[simp] theorem Update.apply_i : (U.apply s).i = U.index.getD s.i := rfl
@[simp] theorem Update.apply_pc : (U.apply s).pc = U.pc.getD s.pc := rfl
@[simp] theorem Update.apply_stack : (U.apply s).stack = (U.calls.map Prod.fst).getD s.stack := rfl
@[simp] theorem Update.apply_sp : (U.apply s).sp = (U.calls.map Prod.snd).getD s.sp := rfl
@[simp] theorem Update.apply_mem : (U.apply s).mem = U.mem.getD s.mem := rfl
@[simp] theorem Update.apply_fb : (U.apply s).fb = U.fb.getD s.fb := rfl
@[simp] theorem Update.apply_dirty : (U.apply s).dirty = (U.drawn || s.dirty) := rfl
@[simp] theorem Update.apply_dt : (U.apply s).dt = U.dt.getD s.dt := rfl
@[simp] theorem Update.apply_st : (U.apply s).st = U.st.getD s.st := rfl
@[simp] theorem Update.apply_events : (U.apply s).events = U.event.toList ++ s.events := rfl
@[simp] theorem Update.apply_faulted : (U.apply s).faulted = (U.fault.isSome || s.faulted) := rfl
@[simp] theorem Update.apply_cause : (U.apply s).cause = (U.fault.map Prod.fst).getD s.cause := rfl
@[simp] theorem Update.apply_info : (U.apply s).info = (U.fault.map Prod.snd).getD s.info := rfl
@[simp] theorem Update.apply_ended : (U.apply s).ended = s.ended := rfl

end

/-! ## What an instruction may write -/

/-- The causes that an instruction can raise (R182). -/
def instructionCauses : List Cause := [.memOob, .stackOverflow, .stackUnderflow, .keyRange, .glyphRange]

/-- The instructions that can change I in a state with these toggles (R17). -/
def writesIndex (i : Instr) (g : Toggles) : Prop :=
  (∃ nnn, i = .ldI nnn) ∨ ∃ x, i = .addI x ∨ i = .ldFont x ∨ (g.indexAdvance = true ∧ (i = .stRegs x ∨ i = .ldRegs x))

/-- Where `pc` can be sent (R18): a jump's target, a skip, the wait for a key, a return. -/
def pcTarget (s : State) (w : Word) : Prop :=
  w.toNat ≤ 0x10FE ∨ w = s.pc ∨ w = s.pc + 2 ∨ w = s.pc - 2 ∨ (0 < s.sp ∧ w = s.entry (s.sp - 1))

/-- The call stack after a push of `pc` or a pop (R20, R21). -/
def callOrReturn (i : Instr) (s : State) (p : Vector Word 128 × Nat) : Prop :=
  ((∃ nnn, i = .call nnn) ∧ s.sp < 128 ∧ p = (s.stack.setIfInBounds s.sp s.pc, s.sp + 1)) ∨
    (i = .ret ∧ 0 < s.sp ∧ p = (s.stack, s.sp - 1))

/-- Every field that is written is written by an instruction that may write it, and within its range. The fields not named in a proof of
this are those the update leaves alone. -/
structure Permitted (i : Instr) (s : State) (U : Update) : Prop where
  v : ∀ v, U.v = some v → ∀ r, ({ s with v := v } : State).getV r ≠ s.getV r → writesV i r = true := by nofun
  index : ∀ w, U.index = some w → w ≠ s.i → writesIndex i s.toggles := by nofun
  pc : ∀ w, U.pc = some w → movesPc i = true ∧ pcTarget s w := by nofun
  calls : ∀ p, U.calls = some p → callOrReturn i s p := by nofun
  mem : ∀ m, U.mem = some m → (∃ x, i = .bcd x ∨ i = .stRegs x) ∧ ∃ a bs, m = s.mem.writeBytes a bs := by nofun
  fb : ∀ g, U.fb = some g → i = .cls ∨ ∃ x y n, i = .drw x y n := by nofun
  drawn : U.drawn = true → i = .cls ∨ ∃ x y n, i = .drw x y n := by nofun
  dt : ∀ b, U.dt = some b → ∃ x, i = .ldDtVx x := by nofun
  st : ∀ b, U.st = some b → ∃ x, i = .ldStVx x := by nofun
  event : ∀ e, U.event = some e → ∃ w, i = .unimpl w := by nofun
  fault : ∀ p, U.fault = some p → canFault i = true ∧ p.1 ∈ instructionCauses := by nofun

/-- In state `s` the instruction makes the writes `U`, which it is permitted, and it makes the same writes in every state with the same readable
part: DT counts as readable for the timer accesses (R197), the toggles for the five instructions of R27. -/
def Performs (i : Instr) (s : State) (U : Update) : Prop :=
  Permitted i s U ∧ ∀ u : State, (accessesTimer i = true → u.dt = s.dt) → (readsToggle i = true → u.toggles = s.toggles) →
    exec i (s.onto u) = .next (U.apply (s.onto u))

/-! ## Registers written -/

section
variable {i : Instr} {x : Reg}

theorem setV_writes (s : State) (b : Byte) (hx : writesV i x = true) :
    ∀ r, (s.setV x b).getV r ≠ s.getV r → writesV i r = true := by
  intro r hr
  by_cases h : r = x
  · rw [h, hx]
  · exact absurd (State.getV_setV_ne s b h) hr

theorem setResultThenFlag_writes (s : State) (p : Byte × Bool) (hx : writesV i x = true) (hf : writesV i regVF = true) :
    ∀ r, (s.setResultThenFlag x p).getV r ≠ s.getV r → writesV i r = true := by
  intro r hr
  by_cases h : r = x
  · rw [h, hx]
  by_cases h' : r = regVF
  · rw [h', hf]
  · exact absurd (State.setResultThenFlag_other s p h h') hr

variable {s : State} {U : Update}

/-- The empty update. -/
theorem Permitted.keep : Permitted i s {} where

/-- V[x] is written. -/
theorem Permitted.setV (s : State) (x : Reg) (b : Byte) (hx : writesV i x = true := by simp [writesV]) :
    Permitted i s { v := some (s.setV x b).v } where
  v := by rintro _ ⟨⟩; exact setV_writes s b hx

/-- V[x] and VF are written. -/
theorem Permitted.setResultThenFlag (s : State) (x : Reg) (p : Byte × Bool) (hx : writesV i x = true := by simp [writesV])
    (hf : writesV i regVF = true := by simp [writesV]) : Permitted i s { v := some (s.setResultThenFlag x p).v } where
  v := by rintro _ ⟨⟩; exact setResultThenFlag_writes s p hx hf

theorem Permitted.setPc (s : State) (w : Word) (hi : movesPc i = true) (hw : pcTarget s w) : Permitted i s { pc := some w } where
  pc := by rintro _ ⟨⟩; exact ⟨hi, hw⟩

theorem Permitted.skipIf (s : State) (c : Bool) (hi : movesPc i = true) : Permitted i s { pc := some (s.skipIf c).pc } :=
  .setPc s _ hi (by cases c <;> simp [pcTarget])

theorem Permitted.stores (s : State) (a : Nat) (bs : List Byte) (hi : ∃ x, i = .bcd x ∨ i = .stRegs x) :
    Permitted i s { mem := some (s.mem.writeBytes a bs) } where
  mem := by rintro _ ⟨⟩; exact ⟨hi, a, bs, rfl⟩

theorem Permitted.draws (s : State) (g : Grid) (d : Bool) (hi : i = .cls ∨ ∃ x y n, i = .drw x y n) :
    Permitted i s { fb := some g, drawn := d } where
  fb := fun _ _ => hi
  drawn := fun _ => hi

/-- I is written as well. -/
theorem Permitted.andIndex (h : Permitted i s U) (w : Word) (hw : w ≠ s.i → writesIndex i s.toggles) :
    Permitted i s { U with index := some w } :=
  { h with index := by rintro _ ⟨⟩; exact hw }

/-- Registers are written as well. -/
theorem Permitted.andV (h : Permitted i s U) (t : State) (ht : ∀ r, t.getV r ≠ s.getV r → writesV i r = true) :
    Permitted i s { U with v := some t.v } :=
  { h with v := by rintro _ ⟨⟩; exact ht }

/-- A fault is raised after the writes. -/
theorem Permitted.andRaise (h : Permitted i s U) (c : Cause) (n : Nat) (hi : canFault i = true) (hc : c ∈ instructionCauses := by decide) :
    Permitted i s { U with fault := some (c, BitVec.ofNat 16 n) } :=
  { h with fault := by rintro _ ⟨⟩; exact ⟨hi, hc⟩ }

end

/-! ## One instruction at a time -/

theorem zext16_pcTarget (nnn : Addr12) (s : State) : pcTarget s (zext16 nnn) := by
  have h := nnn.isLt
  left
  rw [zext16, BitVec.toNat_setWidth]
  omega

theorem jumpOffset_pcTarget (nnn : Addr12) (a : Byte) (s : State) : pcTarget s (BitVec.ofNat 16 (nnn.toNat + a.toNat)) := by
  have h := nnn.isLt
  have h' := a.isLt
  left
  rw [BitVec.toNat_ofNat]
  omega

theorem jumpOffset_onto (s u : State) (nnn : Addr12) (h : u.toggles = s.toggles) : jumpOffset (s.onto u) nnn = jumpOffset s nnn := by
  rw [jumpOffset, jumpOffset, ← h]; rfl

theorem shiftSource_onto (s u : State) (x y : Reg) (h : u.toggles = s.toggles) : shiftSource (s.onto u) x y = shiftSource s x y := by
  rw [shiftSource, shiftSource, ← h]; rfl

/-- The advance of I (R124, R125), in terms of the update's I. -/
theorem advanceIndex_onto (s u t : State) (x : Reg) (h : u.toggles = s.toggles) (ht : t.toggles = u.toggles) (hi : t.i = s.i) :
    advanceIndex t x = { t with i := (advanceIndex s x).i } := by
  rw [State.advanceIndex_i, ← h, ← ht, ← hi]; rfl

theorem advanceIndex_writesIndex {i : Instr} {x : Reg} (s : State) (hi : i = .stRegs x ∨ i = .ldRegs x) (h : (advanceIndex s x).i ≠ s.i) :
    writesIndex i s.toggles := by
  rw [State.advanceIndex_i] at h
  by_cases hg : s.toggles.indexAdvance = true
  · exact .inr ⟨x, .inr (.inr ⟨hg, hi⟩)⟩
  · exact absurd (if_neg hg) h

theorem ret_performs (s : State) : ∃ U, Performs .ret s U := by
  by_cases h : s.sp = 0
  · exact ⟨_, Permitted.keep.andRaise .stackUnderflow 0 rfl, fun u _ _ => execRet_fault (s.onto u) h⟩
  · have h : 0 < s.sp := Nat.pos_of_ne_zero h
    refine ⟨{ pc := some (s.entry (s.sp - 1)), calls := some (s.stack, s.sp - 1) }, { pc := ?_, calls := ?_ },
      fun u _ _ => execRet_ok (s.onto u) h⟩
    · rintro _ ⟨⟩; exact ⟨rfl, .inr (.inr (.inr (.inr ⟨h, rfl⟩)))⟩
    · rintro _ ⟨⟩; exact .inr ⟨rfl, h, rfl⟩

theorem call_performs (nnn : Addr12) (s : State) : ∃ U, Performs (.call nnn) s U := by
  by_cases h : s.sp < 128
  · refine ⟨{ pc := some (zext16 nnn), calls := some (s.stack.setIfInBounds s.sp s.pc, s.sp + 1) }, { pc := ?_, calls := ?_ },
      fun u _ _ => execCall_ok nnn (s.onto u) h⟩
    · rintro _ ⟨⟩; exact ⟨rfl, zext16_pcTarget nnn s⟩
    · rintro _ ⟨⟩; exact .inl ⟨⟨nnn, rfl⟩, h, rfl⟩
  · exact ⟨_, Permitted.keep.andRaise .stackOverflow s.pc.toNat rfl, fun u _ _ => execCall_fault nnn (s.onto u) (Nat.le_of_not_lt h)⟩

theorem skp_performs (x : Reg) (s : State) : ∃ U, Performs (.skp x) s U := by
  by_cases h : 15 < (s.getV x).toNat
  · exact ⟨_, Permitted.keep.andRaise .keyRange (s.getV x).toNat rfl, fun u _ _ => if_pos h⟩
  · exact ⟨_, .skipIf s (keyHeld s (s.getV x).toNat) rfl, fun u _ _ => if_neg h⟩

theorem sknp_performs (x : Reg) (s : State) : ∃ U, Performs (.sknp x) s U := by
  by_cases h : 15 < (s.getV x).toNat
  · exact ⟨_, Permitted.keep.andRaise .keyRange (s.getV x).toNat rfl, fun u _ _ => if_pos h⟩
  · exact ⟨_, .skipIf s (!keyHeld s (s.getV x).toNat) rfl, fun u _ _ => if_neg h⟩

theorem ldFont_performs (x : Reg) (s : State) : ∃ U, Performs (.ldFont x) s U := by
  by_cases h : 15 < (s.getV x).toNat
  · exact ⟨_, Permitted.keep.andRaise .glyphRange (s.getV x).toNat rfl, fun u _ _ => if_pos h⟩
  · exact ⟨_, Permitted.keep.andIndex (glyphAddress (s.getV x)) (fun _ => .inr ⟨x, .inr (.inl rfl)⟩), fun u _ _ => if_neg h⟩

theorem ldVxKey_performs (x : Reg) (s : State) : ∃ U, Performs (.ldVxKey x) s U := by
  cases h : leastHeldKey s with
  | some k =>
    refine ⟨_, .setV s x (BitVec.ofNat 8 k), fun u _ _ => ?_⟩
    have h' : leastHeldKey (s.onto u) = some k := h
    simp only [exec, execLdVxKey, h']; rfl
  | none =>
    refine ⟨_, .setPc s (s.pc - 2) rfl (.inr (.inr (.inr (.inl rfl)))), fun u _ _ => ?_⟩
    have h' : leastHeldKey (s.onto u) = none := h
    simp only [exec, execLdVxKey, h']; rfl

theorem addI_performs (x : Reg) (s : State) : ∃ U, Performs (.addI x) s U :=
  ⟨_, (Permitted.setV s regVF (if (addIndex s.i (s.getV x)).2 then flagByte true else s.getV regVF)).andIndex
    (addIndex s.i (s.getV x)).1 (fun _ => .inr ⟨x, .inl rfl⟩), fun _ _ _ => rfl⟩

theorem bcd_performs (x : Reg) (s : State) : ∃ U, Performs (.bcd x) s U := by
  rcases transfer_cases s 2 with h | ⟨k, hk, hout, hin⟩
  · exact ⟨_, .stores s (s.ea 0) (decimalDigits (s.getV x)) ⟨x, .inl rfl⟩, fun u _ _ => execBcd_ok x (s.onto u) h⟩
  · exact ⟨_, (Permitted.stores s (s.ea 0) ((decimalDigits (s.getV x)).take k) ⟨x, .inl rfl⟩).andRaise .memOob (s.ea k) rfl,
      fun u _ _ => execBcd_fault x (s.onto u) k hk hout hin⟩

theorem stRegs_performs (x : Reg) (s : State) : ∃ U, Performs (.stRegs x) s U := by
  rcases transfer_cases s x.toNat with h | ⟨k, hk, hout, hin⟩
  · exact ⟨_, (Permitted.stores s (s.ea 0) (regBlock s x) ⟨x, .inr rfl⟩).andIndex _ (advanceIndex_writesIndex s (.inl rfl)),
      fun u _ hg => (execStRegs_ok x (s.onto u) h).trans (congrArg _ (advanceIndex_onto s u _ x (hg rfl) rfl rfl))⟩
  · exact ⟨_, (Permitted.stores s (s.ea 0) ((regBlock s x).take k) ⟨x, .inr rfl⟩).andRaise .memOob (s.ea k) rfl,
      fun u _ _ => execStRegs_fault x (s.onto u) k hk hout hin⟩

/-- V[0] to V[k - 1] are loaded, the others kept: such an update of the registers is permitted to `FX65` when k ≤ X + 1. -/
theorem loaded_writes {x : Reg} {k : Nat} {s t : State} (hk : k ≤ x.toNat + 1)
    (ht : ∀ r : Reg, t.getV r = if r.toNat < k then s.mem.read (s.ea r.toNat) else s.getV r) :
    ∀ r, t.getV r ≠ s.getV r → writesV (.ldRegs x) r = true := by
  intro r hr
  by_cases h : r.toNat < k
  · exact decide_eq_true (by omega)
  · exact absurd (by rw [ht, if_neg h]) hr

theorem ldRegs_performs (x : Reg) (s : State) : ∃ U, Performs (.ldRegs x) s U := by
  rcases transfer_cases s x.toNat with h | ⟨k, hk, hout, hin⟩
  · obtain ⟨t, -, -, hv⟩ := execLdRegs_ok x s h
    have hw := loaded_writes le_rfl (fun r => by simpa only [Nat.lt_succ_iff] using hv r)
    refine ⟨_, (Permitted.keep.andV t hw).andIndex _ (advanceIndex_writesIndex s (.inr rfl)), fun u _ hg => ?_⟩
    obtain ⟨t', ht', hf, hv'⟩ := execLdRegs_ok x (s.onto u) h
    rw [State.v_eq_of_getV (fun r => (hv' r).trans (hv r).symm)] at hf
    rw [hf] at ht'
    exact ht'.trans (congrArg _ (advanceIndex_onto s u _ x (hg rfl) rfl rfl))
  · obtain ⟨t, -, -, hv⟩ := execLdRegs_fault x s k hk hout hin
    refine ⟨_, (Permitted.keep.andV t (loaded_writes (Nat.le_succ_of_le hk) hv)).andRaise .memOob (s.ea k) rfl, fun u _ _ => ?_⟩
    obtain ⟨t', ht', hf, hv'⟩ := execLdRegs_fault x (s.onto u) k hk hout hin
    rw [State.v_eq_of_getV (fun r => (hv' r).trans (hv r).symm)] at hf
    rw [hf] at ht'
    exact ht'

theorem drw_performs (x y : Reg) (n : Nibble) (s : State) : ∃ U, Performs (.drw x y n) s U := by
  rcases draw_cases s (drawRow s y) n.toNat with h | ⟨k, hk, hrow, hout, hin⟩
  · obtain ⟨hit, t, -, -, hc, -, hh⟩ := execDrw_ok x y n s h
    refine ⟨_, (Permitted.draws s t.fb (decide (0 < n.toNat)) (.inr ⟨x, y, n, rfl⟩)).andV (s.setV regVF (flagByte hit))
      (setV_writes s _ rfl), fun u _ _ => ?_⟩
    obtain ⟨hit', t', ht', hf, hc', hd, hh'⟩ := execDrw_ok x y n (s.onto u) h
    have hfb : t'.fb = t.fb := Grid.eq_of_get (fun r c hr hcol => (hc' r c hr hcol).trans (hc r c hr hcol).symm)
    have hhit : hit' = hit := Bool.eq_iff_iff.mpr (hh'.trans hh.symm)
    rw [hfb, hd, Bool.or_comm] at hf
    rw [hhit, hf] at ht'
    exact ht'
  · obtain ⟨t, -, -, hc, -⟩ := execDrw_fault x y n s k hk hrow hout hin
    refine ⟨_, (Permitted.draws s t.fb (decide (0 < k)) (.inr ⟨x, y, n, rfl⟩)).andRaise .memOob (s.ea k) rfl, fun u _ _ => ?_⟩
    obtain ⟨t', ht', hf, hc', hd⟩ := execDrw_fault x y n (s.onto u) k hk hrow hout hin
    have hfb : t'.fb = t.fb := Grid.eq_of_get (fun r c hr hcol => (hc' r c hr hcol).trans (hc r c hr hcol).symm)
    rw [hfb, hd, Bool.or_comm] at hf
    rw [hf] at ht'
    exact ht'

/-- What every instruction does, the one case split over the instructions: permitted writes, chosen by what it can read. -/
theorem exec_performs (i : Instr) (s : State) : ∃ U, Performs i s U := by
  cases i with
  | cls => exact ⟨_, .draws s Grid.blank true (.inl rfl), fun _ _ _ => rfl⟩
  | ret => exact ret_performs s
  | jp nnn => exact ⟨_, .setPc s (zext16 nnn) rfl (zext16_pcTarget nnn s), fun _ _ _ => rfl⟩
  | call nnn => exact call_performs nnn s
  | seImm x nn => exact ⟨_, .skipIf s (s.getV x == nn) rfl, fun _ _ _ => rfl⟩
  | sneImm x nn => exact ⟨_, .skipIf s (s.getV x != nn) rfl, fun _ _ _ => rfl⟩
  | seReg x y => exact ⟨_, .skipIf s (s.getV x == s.getV y) rfl, fun _ _ _ => rfl⟩
  | sneReg x y => exact ⟨_, .skipIf s (s.getV x != s.getV y) rfl, fun _ _ _ => rfl⟩
  | ldImm x nn => exact ⟨_, .setV s x nn, fun _ _ _ => rfl⟩
  | addImm x nn => exact ⟨_, .setV s x (addCarry (s.getV x) nn).1, fun _ _ _ => rfl⟩
  | ldReg x y => exact ⟨_, .setV s x (s.getV y), fun _ _ _ => rfl⟩
  | orReg x y => exact ⟨_, .setV s x (s.getV x ||| s.getV y), fun _ _ _ => rfl⟩
  | andReg x y => exact ⟨_, .setV s x (s.getV x &&& s.getV y), fun _ _ _ => rfl⟩
  | xorReg x y => exact ⟨_, .setV s x (s.getV x ^^^ s.getV y), fun _ _ _ => rfl⟩
  | addReg x y =>
    exact ⟨_, .setResultThenFlag s x (addCarry (s.getV x) (s.getV y)), fun _ _ _ => rfl⟩
  | sub x y =>
    exact ⟨_, .setResultThenFlag s x (subNoBorrow (s.getV x) (s.getV y)), fun _ _ _ => rfl⟩
  | subn x y =>
    exact ⟨_, .setResultThenFlag s x (subNoBorrow (s.getV y) (s.getV x)), fun _ _ _ => rfl⟩
  | shr x y =>
    refine ⟨_, .setResultThenFlag s x (shiftRightOut (shiftSource s x y)), fun u _ hg => ?_⟩
    rw [← shiftSource_onto s u x y (hg rfl)]; rfl
  | shl x y =>
    refine ⟨_, .setResultThenFlag s x (shiftLeftOut (shiftSource s x y)), fun u _ hg => ?_⟩
    rw [← shiftSource_onto s u x y (hg rfl)]; rfl
  | ldI nnn => exact ⟨_, Permitted.keep.andIndex (zext16 nnn) (fun _ => .inl ⟨nnn, rfl⟩), fun _ _ _ => rfl⟩
  | jpOff nnn =>
    refine ⟨_, .setPc s _ rfl (jumpOffset_pcTarget nnn (jumpOffset s nnn) s), fun u _ hg => ?_⟩
    rw [← jumpOffset_onto s u nnn (hg rfl)]; rfl
  | rnd x nn => exact ⟨_, .setV s x (rand8 s &&& nn), fun _ _ _ => rfl⟩
  | drw x y n => exact drw_performs x y n s
  | skp x => exact skp_performs x s
  | sknp x => exact sknp_performs x s
  | ldVxDt x =>
    refine ⟨_, .setV s x s.dt, fun u hd _ => ?_⟩
    rw [← hd rfl]; rfl
  | ldDtVx x => exact ⟨{ dt := some (s.getV x) }, { dt := fun _ _ => ⟨x, rfl⟩ }, fun _ _ _ => rfl⟩
  | ldStVx x => exact ⟨{ st := some (s.getV x) }, { st := fun _ _ => ⟨x, rfl⟩ }, fun _ _ _ => rfl⟩
  | addI x => exact addI_performs x s
  | ldVxKey x => exact ldVxKey_performs x s
  | ldFont x => exact ldFont_performs x s
  | bcd x => exact bcd_performs x s
  | stRegs x => exact stRegs_performs x s
  | ldRegs x => exact ldRegs_performs x s
  | unimpl w => exact ⟨{ event := some (.report w) }, { event := fun _ _ => ⟨w, rfl⟩ }, fun _ _ _ => rfl⟩

end Sys2Proof.Machine
end

section
/-! SUPPORT. The statements of `10_state.md` about one instruction: which state it writes (R12 to R28, R182), what it cannot read (R32), what the
toggles select (R27). -/

namespace Sys2Proof.Machine

/-- The inversion of `exec`: the state answered is an update by permitted writes. -/
theorem exec_inv {i : Instr} {s t : State} (h : exec i s = .next t) : ∃ U, Permitted i s U ∧ t = U.apply s := by
  obtain ⟨U, hU, he⟩ := exec_performs i s
  rw [← s.onto_self, he s (fun _ => rfl) (fun _ => rfl)] at h
  cases h
  exact ⟨U, hU, rfl⟩

/-- An instruction makes the same writes in two states that it cannot tell apart. -/
theorem exec_same_update (i : Instr) {s u : State} (hu : s.onto u = u) (hd : accessesTimer i = true → u.dt = s.dt)
    (hg : readsToggle i = true → u.toggles = s.toggles) :
    ∃ U, Permitted i s U ∧ exec i s = .next (U.apply s) ∧ exec i u = .next (U.apply u) := by
  obtain ⟨U, hU, he⟩ := exec_performs i s
  have hs := he s (fun _ => rfl) (fun _ => rfl)
  have hu' := he u hd hg
  rw [hu] at hu'
  exact ⟨U, hU, hs, hu'⟩

/-! ## Writers -/

/-- A field that changes is one that is written. -/
theorem written_of_getD_ne {α : Type} {o : Option α} {a : α} (h : o.getD a ≠ a) : ∃ b, o = some b ∧ b ≠ a := by
  cases o with
  | none => exact absurd rfl h
  | some b => exact ⟨b, rfl, h⟩

section
variable {i : Instr} {s : State} {U : Update}

theorem Permitted.writesV_of_ne (hU : Permitted i s U) {r : Reg} (hr : (U.apply s).getV r ≠ s.getV r) : writesV i r = true := by
  obtain ⟨v, hv, -⟩ := written_of_getD_ne (fun e => hr (State.getV_congr e r))
  exact hU.v v hv r (by simpa [State.getV, hv] using hr)

theorem Permitted.canFault_of_ne (hU : Permitted i s U)
    (h : (U.apply s).faulted ≠ s.faulted ∨ (U.apply s).cause ≠ s.cause ∨ (U.apply s).info ≠ s.info) : canFault i = true := by
  cases hf : U.fault with
  | none => simp [hf] at h
  | some p => exact (hU.fault p hf).1

theorem Permitted.draws_of_ne (hU : Permitted i s U) (h : (U.apply s).fb ≠ s.fb ∨ (U.apply s).dirty ≠ s.dirty) :
    i = .cls ∨ ∃ x y n, i = .drw x y n := by
  rcases h with h | h
  · obtain ⟨g, hg, -⟩ := written_of_getD_ne h
    exact hU.fb g hg
  · cases hd : U.drawn with
    | false => simp [hd] at h
    | true => exact hU.drawn hd

theorem Permitted.call_of_stack_ne (hU : Permitted i s U) (h : (U.apply s).stack ≠ s.stack) : ∃ nnn, i = .call nnn := by
  cases hc : U.calls with
  | none => simp [hc] at h
  | some p =>
    rcases hU.calls p hc with ⟨hi, -⟩ | ⟨-, -, rfl⟩
    · exact hi
    · simp [hc] at h

theorem Permitted.ret_or_call_of_sp_ne (hU : Permitted i s U) (h : (U.apply s).sp ≠ s.sp) : i = .ret ∨ ∃ nnn, i = .call nnn := by
  cases hc : U.calls with
  | none => simp [hc] at h
  | some p => exact (hU.calls p hc).symm.imp And.left And.left

theorem Permitted.unimpl_of_events_ne (hU : Permitted i s U) (h : (U.apply s).events ≠ s.events) : ∃ w, i = .unimpl w := by
  cases he : U.event with
  | none => simp [he] at h
  | some e => exact hU.event e he

end

/-- Settles O58: an instruction's writes are permitted, and a field that it changes is one that it writes. -/
theorem writersOfEachState : Obligations.WritersOfEachState := by
  intro i s t h
  obtain ⟨U, hU, rfl⟩ := exec_inv h
  refine ⟨fun r => hU.writesV_of_ne, fun hpc => ?_, hU.canFault_of_ne, fun hmem => ?_, hU.draws_of_ne, hU.call_of_stack_ne,
    hU.ret_or_call_of_sp_ne, fun hdt => ?_, fun hst => ?_, fun hi => ?_, hU.unimpl_of_events_ne, rfl, rfl, rfl, rfl, rfl⟩
  · obtain ⟨w, hw, -⟩ := written_of_getD_ne hpc
    exact (hU.pc w hw).1
  · obtain ⟨m, hm, -⟩ := written_of_getD_ne hmem
    exact (hU.mem m hm).1
  · obtain ⟨b, hb, -⟩ := written_of_getD_ne hdt
    exact hU.dt b hb
  · obtain ⟨b, hb, -⟩ := written_of_getD_ne hst
    exact hU.st b hb
  · obtain ⟨w, hw, hne⟩ := written_of_getD_ne hi
    exact hU.index w hw hne

/-! ## Noninterference -/

theorem State.onto_of_hide_eq {s u : State} (h : s.hide = u.hide) : s.onto u = u :=
  show s.hide.onto u = u.hide.onto u by rw [h]

/-- What an update leaves visible depends on what is visible before it alone. -/
theorem Update.apply_hide (U : Update) (s : State) : (U.apply s).hide = (U.apply s.hide).hide := rfl

/-- Settles O59: what is hidden is not read, so both states get the same update. -/
theorem hiddenStateIsNotRead : Obligations.HiddenStateIsNotRead := by
  intro i s s' h
  obtain ⟨U, -, hs, hs'⟩ := exec_same_update i (State.onto_of_hide_eq h) (fun _ => (congrArg State.dt h).symm)
    (fun _ => (congrArg State.toggles h).symm)
  refine ⟨_, _, hs, hs', ?_⟩
  rw [U.apply_hide, h, ← U.apply_hide]

/-- Settles O60: an instruction that reads no toggle makes the same update under any toggles, and no update writes them. -/
theorem togglesAffectFiveInstructions : Obligations.TogglesAffectFiveInstructions := by
  intro i s g hi
  have hno : readsToggle i = true → g = s.toggles := fun h => absurd h (by simp [hi])
  obtain ⟨U, -, hs, hs'⟩ := exec_same_update i (s := s) (u := { s with toggles := g }) rfl (fun _ => rfl) hno
  exact ⟨_, hs, hs'⟩

end Sys2Proof.Machine
end

section
/-! SUPPORT. The invariants that every step keeps (R28, R33, R41). -/

namespace Sys2Proof.Machine

/-! ## What follows the instruction -/

/-- What follows the instruction writes timers, SOUNDING, events and the fault status alone. -/
theorem afterStep_frame (s : State) : s.afterStep = { s with
    dt := s.afterStep.dt, st := s.afterStep.st, sounding := s.afterStep.sounding, events := s.afterStep.events,
    faulted := s.afterStep.faulted, cause := s.afterStep.cause, info := s.afterStep.info } := by
  cases hf : s.faulted with
  | true => rw [afterStep_faulted hf]
  | false => rcases afterStep_cases hf with h | h | h | h <;> rw [h] <;> rfl

/-! ## Memory -/

theorem exec_keeps_mem_wf {i : Instr} {s t : State} (hs : s.mem.wf = true) (h : exec i s = .next t) : t.mem.wf = true := by
  obtain ⟨U, hU, rfl⟩ := exec_inv h
  cases hm : U.mem with
  | none => simpa [hm] using hs
  | some m =>
    obtain ⟨-, a, bs, rfl⟩ := hU.mem m hm
    simpa [hm] using Memory.wf_writeBytes bs s.mem a hs

/-- Settles O19: around the instruction nothing writes memory, and the instruction's writes keep it canonical. -/
theorem stepKeepsMemoryCanonical : Obligations.StepKeepsMemoryCanonical := by
  intro s t hs h
  obtain ⟨-, -, ⟨-, rfl⟩ | ⟨-, -, rfl⟩ | ⟨-, -, -, rfl⟩ | ⟨-, -, -, u, hu, rfl⟩⟩ := step_cases h
  · exact hs
  · exact hs
  · exact hs
  · have hkept := exec_keeps_mem_wf (s := s.drawPhase.setPc (s.pc + 2)) hs hu
    rw [afterStep_frame]
    exact hkept

/-! ## `pc`, SP and the entries held -/

theorem pcTarget_inRange {s : State} {w : Word} (hs : s.pcAndStackInRange) (hlo : 2 ≤ s.pc.toNat) (hhi : s.pc.toNat ≤ 0x1000)
    (hw : pcTarget s w) : w.toNat ≤ 0x10FE := by
  obtain ⟨-, -, hent⟩ := hs
  rcases hw with hw | rfl | rfl | rfl | ⟨hsp, rfl⟩
  · exact hw
  · omega
  · bv_omega
  · bv_omega
  · have := hent (s.sp - 1) (by omega)
    omega

/-- The entries held after a call or a return: the one pushed, which is a post-fetch `pc`, or some that were held before. -/
theorem callOrReturn_inRange {i : Instr} {s : State} {p : Vector Word 128 × Nat} (hs : s.pcAndStackInRange) (hlo : 2 ≤ s.pc.toNat)
    (hhi : s.pc.toNat ≤ 0x1000) (hp : callOrReturn i s p) : ({ s with stack := p.1, sp := p.2 } : State).pcAndStackInRange := by
  obtain ⟨hsp, hpc, hent⟩ := hs
  rcases hp with ⟨-, hlt, rfl⟩ | ⟨-, hpos, rfl⟩
  · refine ⟨hlt, hpc, fun j hj => ?_⟩
    simp only [State.entry, entry_setIfInBounds _ _ _ _ hlt]
    by_cases h : j = s.sp
    · rw [if_pos h]; exact ⟨hlo, hhi⟩
    · rw [if_neg h]; exact hent j (by simp only at hj; omega)
  · exact ⟨by simp only; omega, hpc, fun j hj => hent j (by simp only at hj; omega)⟩

/-- The post-fetch `pc` of an instruction in memory lies from 2 to 0x1000; from there every instruction keeps the invariant. -/
theorem exec_keeps_pcAndStackInRange {i : Instr} {s t : State} (hs : s.pcAndStackInRange) (hlo : 2 ≤ s.pc.toNat) (hhi : s.pc.toNat ≤ 0x1000)
    (h : exec i s = .next t) : t.pcAndStackInRange := by
  obtain ⟨U, hU, rfl⟩ := exec_inv h
  have ⟨_, hpc, _⟩ := hs
  have hpc' : (U.apply s).pc.toNat ≤ 0x10FE := by
    cases hw : U.pc with
    | none => simpa [hw] using hpc
    | some w => simpa [hw] using pcTarget_inRange hs hlo hhi (hU.pc w hw).2
  have hstack : ({ s with stack := (U.apply s).stack, sp := (U.apply s).sp } : State).pcAndStackInRange := by
    cases hp : U.calls with
    | none => simpa [hp] using hs
    | some p => simpa [hp] using callOrReturn_inRange hs hlo hhi (hU.calls p hp)
  obtain ⟨hsp, -, hent⟩ := hstack
  exact ⟨hsp, hpc', hent⟩

/-- Settles O55: after the fetch `pc` lies from 2 to 0x1000, which is what a call pushes and a skip or a key wait starts from. -/
theorem stepKeepsPcAndStackInRange : Obligations.StepKeepsPcAndStackInRange := by
  intro s t hs h
  obtain ⟨-, -, ⟨-, rfl⟩ | ⟨-, -, rfl⟩ | ⟨-, -, -, rfl⟩ | ⟨-, -, hpc, u, hu, rfl⟩⟩ := step_cases h
  · exact hs
  · exact hs
  · exact hs
  · have hnext : (s.drawPhase.setPc (s.pc + 2)).pc.toNat = s.pc.toNat + 2 := by rw [State.setPc_pc]; bv_omega
    obtain ⟨hsp, -, hent⟩ := hs
    have hfetched : (s.drawPhase.setPc (s.pc + 2)).pcAndStackInRange := ⟨hsp, by omega, hent⟩
    have hkept := exec_keeps_pcAndStackInRange hfetched (by omega) (by omega) hu
    rw [afterStep_frame]
    exact hkept

/-! ## Fault status -/

/-- Raising a cause that can be raised, in a run that has not ended, is coherent. -/
theorem raise_faultStatusCoherent {s : State} (c : Cause) (n : Nat) (he : s.ended = false) (hc : c ≠ .none ∧ c ≠ .regOob ∧ c ≠ .fbOob) :
    (s.raise c n).faultStatusCoherent :=
  ⟨nofun, fun _ => ⟨hc.1, he⟩, hc.2⟩

theorem instructionCauses_raisable {c : Cause} (hc : c ∈ instructionCauses) : c ≠ .none ∧ c ≠ .regOob ∧ c ≠ .fbOob := by
  revert hc; cases c <;> decide

theorem exec_keeps_faultStatusCoherent {i : Instr} {s t : State} (hs : s.faultStatusCoherent) (he : s.ended = false)
    (h : exec i s = .next t) : t.faultStatusCoherent ∧ t.ended = false := by
  obtain ⟨U, hU, rfl⟩ := exec_inv h
  refine ⟨?_, he⟩
  cases hf : U.fault with
  | none => simpa [State.faultStatusCoherent, hf] using hs
  | some p =>
    have hc := instructionCauses_raisable (hU.fault p hf).2
    simpa [State.faultStatusCoherent, hf] using ⟨⟨hc.1, he⟩, hc.2⟩

theorem afterStep_keeps_faultStatusCoherent {s : State} (hs : s.faultStatusCoherent) (he : s.ended = false) :
    s.afterStep.faultStatusCoherent := by
  cases hf : s.faulted with
  | true => rwa [afterStep_faulted hf]
  | false =>
    rcases afterStep_cases hf with h | h | h | h <;> rw [h]
    · exact hs
    all_goals exact raise_faultStatusCoherent .hostError 0 he (by decide)

/-- Settles O56: whatever raises a fault in a step raises a cause that can be raised, in a run that has not ended. -/
theorem stepKeepsFaultStatusCoherent : Obligations.StepKeepsFaultStatusCoherent := by
  intro s t hs h
  obtain ⟨hf, he, ⟨-, rfl⟩ | ⟨-, -, rfl⟩ | ⟨-, -, -, rfl⟩ | ⟨-, -, -, u, hu, rfl⟩⟩ := step_cases h
  · obtain ⟨h0, -, hc⟩ := hs
    exact ⟨h0, fun h1 => absurd h1 (by simp [hf]), hc⟩
  · exact raise_faultStatusCoherent (s := s.drawPhase) .hostError 0 he (by decide)
  · exact raise_faultStatusCoherent (s := s.drawPhase) .memOob _ he (by decide)
  · obtain ⟨hu', he'⟩ := exec_keeps_faultStatusCoherent (s := s.drawPhase.setPc (s.pc + 2)) hs he hu
    exact afterStep_keeps_faultStatusCoherent hu' he'

/-! ## Reset -/

/-- Settles O14, from the reset values. -/
theorem resetMeetsTheInvariants : Obligations.ResetMeetsTheInvariants :=
  ⟨State.reset_mem_wf, ⟨by decide, by decide, fun j h => absurd h (Nat.not_lt_zero j)⟩, ⟨by decide, by decide, by decide, by decide⟩, rfl⟩

end Sys2Proof.Machine
end

section
/-! SUPPORT. A canonical memory is its bytes (R13, R46). -/

namespace Sys2Proof.Machine

theorem Memory.wfFrom_cons (lo a : Nat) (b : Byte) (m : Memory) :
    Memory.wfFrom lo ((a, b) :: m) = true ↔ (lo ≤ a ∧ a < 4096 ∧ b ≠ unlistedByte a ∧ Memory.wfFrom (a + 1) m = true) := by
  simp [Memory.wfFrom, and_assoc]

/-- Below its first address a canonical memory reads as the reset contents. -/
theorem Memory.read_of_wfFrom_lt {m : Memory} {lo c : Nat} (hm : Memory.wfFrom lo m = true) (hc : c < lo) : m.read c = unlistedByte c := by
  induction m generalizing lo with
  | nil => rfl
  | cons d m ih =>
    obtain ⟨a, b⟩ := d
    obtain ⟨hlo, -, -, hm⟩ := (Memory.wfFrom_cons lo a b m).mp hm
    rw [Memory.read, if_neg (by omega)]
    exact ih hm (by omega)

/-- The first address that a canonical memory lists, below every address that another one lists, tells the two apart. -/
theorem Memory.read_head_ne {m m' : Memory} {lo a : Nat} {b : Byte} (hm : Memory.wfFrom lo ((a, b) :: m) = true)
    (hm' : Memory.wfFrom (a + 1) m' = true) : Memory.read ((a, b) :: m) a ≠ m'.read a := by
  obtain ⟨-, -, hb, -⟩ := (Memory.wfFrom_cons lo a b m).mp hm
  rw [Memory.read_of_wfFrom_lt hm' (Nat.lt_succ_self a), Memory.read, if_pos rfl]
  exact hb

/-- The tails of two canonical memories with the same first entry read the same when the memories do. -/
theorem Memory.read_tail_eq {m m' : Memory} {a : Nat} {b : Byte} (hm : Memory.wfFrom (a + 1) m = true) (hm' : Memory.wfFrom (a + 1) m' = true)
    {c : Nat} (h : Memory.read ((a, b) :: m) c = Memory.read ((a, b) :: m') c) : m.read c = m'.read c := by
  by_cases hc : c = a
  · rw [Memory.read_of_wfFrom_lt hm (by omega), Memory.read_of_wfFrom_lt hm' (by omega)]
  · simpa only [Memory.read, if_neg hc] using h

theorem Memory.eq_of_read {m m' : Memory} {lo : Nat} (hm : Memory.wfFrom lo m = true) (hm' : Memory.wfFrom lo m' = true)
    (h : ∀ c, c < 4096 → m.read c = m'.read c) : m = m' := by
  induction m generalizing lo m' with
  | nil =>
    cases m' with
    | nil => rfl
    | cons d m' =>
      obtain ⟨a, b⟩ := d
      obtain ⟨-, ha, -, -⟩ := (Memory.wfFrom_cons lo a b m').mp hm'
      exact absurd (h a ha).symm (Memory.read_head_ne hm' rfl)
  | cons d m ih =>
    obtain ⟨a, b⟩ := d
    obtain ⟨hlo, ha, -, ht⟩ := (Memory.wfFrom_cons lo a b m).mp hm
    cases m' with
    | nil => exact absurd (h a ha) (Memory.read_head_ne hm rfl)
    | cons d' m' =>
      obtain ⟨a', b'⟩ := d'
      obtain ⟨hlo', ha', hb', ht'⟩ := (Memory.wfFrom_cons lo a' b' m').mp hm'
      rcases Nat.lt_trichotomy a a' with hlt | rfl | hlt
      · have hrest : Memory.wfFrom (a + 1) ((a', b') :: m') = true := (Memory.wfFrom_cons ..).mpr ⟨hlt, ha', hb', ht'⟩
        exact absurd (h a ha) (Memory.read_head_ne hm hrest)
      · have hb : b = b' := by simpa [Memory.read] using h a ha
        subst hb
        rw [ih ht ht' (fun c hc => Memory.read_tail_eq ht ht' (h c hc))]
      · have hrest : Memory.wfFrom (a' + 1) ((a, b) :: m) = true :=
          (Memory.wfFrom_cons ..).mpr ⟨hlt, (Memory.wfFrom_cons ..).mp hm |>.2⟩
        exact absurd (h a' ha').symm (Memory.read_head_ne hm' hrest)

/-- Settles O18, by induction on the two lists: the first entries must be equal, and so must the rest. -/
theorem canonicalMemoryIsItsBytes : Obligations.CanonicalMemoryIsItsBytes :=
  fun _ _ hm hm' h => Memory.eq_of_read hm hm' h

end Sys2Proof.Machine
end

section
/-! SUPPORT. The call stack (R19 to R22). -/

namespace Sys2Proof.Machine

/-- The state after a push. -/
def State.pushed (s : State) (w : Word) : State := { s with stack := s.stack.setIfInBounds s.sp w, sp := s.sp + 1 }

theorem State.entry_pushed (s : State) (w : Word) (h : s.sp < 128) (j : Nat) : (s.pushed w).entry j = if j = s.sp then w else s.entry j :=
  entry_setIfInBounds s.stack s.sp j w h

/-- Settles O20, from what `push` and `pop` answer on either side of their bounds. -/
theorem pushAndPop : Obligations.PushAndPop := by
  intro s w hs
  refine ⟨fun h => ?_, fun h => ?_, fun h => ?_, fun h => ?_⟩
  · exact ⟨_, push_error s w (by omega), rfl, rfl, by simp, rfl⟩
  · have hlt : s.sp < 128 := by omega
    refine ⟨s.pushed w, push_ok s w hlt, rfl, ?_, fun j hj => ?_, rfl⟩
    · rw [State.entry_pushed s w hlt, if_pos rfl]
    · rw [State.entry_pushed s w hlt, if_neg hj]
  · exact ⟨_, pop_error s h, rfl, rfl, rfl, rfl⟩
  · exact ⟨_, pop_ok s (by omega), rfl, rfl⟩

/-- n + 1 pops are n pops and then one. -/
theorem popTimes_succ_of_pop {n : Nat} {s t u : State} {ws : List Word} {w : Word} (hn : popTimes s n = .ok (ws, t)) (h : pop t = .ok (w, u)) :
    popTimes s (n + 1) = .ok (ws ++ [w], u) := by
  induction n generalizing s ws with
  | zero =>
    cases hn
    simp only [popTimes, h, List.nil_append]
  | succ n ih =>
    rw [popTimes] at hn
    split at hn
    · rename_i w' s' hp
      split at hn
      · rename_i ws' s'' hn'
        cases hn
        rw [popTimes, hp]
        simp only [ih hn', List.cons_append]
      · cases hn
    · cases hn

/-- Settles O21, by induction on the values: the first one pushed lies below the rest, and is popped after them. -/
theorem stackIsLastInFirstOut : Obligations.StackIsLastInFirstOut := by
  intro ws
  induction ws with
  | nil => exact fun s _ => ⟨s, s, rfl, rfl, rfl, fun _ _ => rfl, rfl⟩
  | cons w ws ih =>
    intro s hs
    rw [List.length_cons] at hs
    have hlt : s.sp < 128 := by omega
    have hsp : (s.pushed w).sp = s.sp + 1 := rfl
    obtain ⟨t, u, hpush, hpop, husp, hent, hu⟩ := ih (s.pushed w) (by omega)
    have hw : u.entry (u.sp - 1) = w := by
      rw [husp, hsp, Nat.add_sub_cancel, hent s.sp (by omega), State.entry_pushed s w hlt, if_pos rfl]
    have hlast := pop_ok u (by omega)
    rw [hw] at hlast
    refine ⟨t, { u with sp := u.sp - 1 }, ?_, ?_, ?_, fun j hj => ?_, ?_⟩
    · rw [pushAll, push_ok s w hlt]; exact hpush
    · rw [List.length_cons, List.reverse_cons]; exact popTimes_succ_of_pop hpop hlast
    · show u.sp - 1 = s.sp
      omega
    · show u.entry j = s.entry j
      rw [hent j (by omega), State.entry_pushed s w hlt, if_neg (by omega)]
    · rw [hu]; rfl

end Sys2Proof.Machine
end

section
/-! SUPPORT. One byte of memory (R40, R41), and what the next fetch sees of a byte or a word written at `pc` (R42, R53, R60). -/

namespace Sys2Proof.Machine

/-! ## One byte -/

/-- Settles O17, from what a load and a store answer on either side of 4096 and from reading after a write. -/
theorem byteReadAfterWrite : Obligations.ByteReadAfterWrite := by
  intro s a b
  refine ⟨fun h => ?_, fun h => ?_⟩
  · refine ⟨loadByte_ok s h, _, storeByte_ok s b h, ?_, fun c hc => Memory.read_write_ne s.mem b hc, rfl⟩
    rw [loadByte_ok _ h, Memory.read_write_same s.mem b h]
  · exact ⟨s.raise .memOob a, loadByte_error s h, storeByte_error s b h, rfl, rfl, BitVec.toNat_ofNat a 16, rfl⟩

theorem fetch_withMem (s : State) (m : Memory) (hpc : s.pc.toNat ≤ 0x0FFE) :
    fetch { s with mem := m } = .ok (m.read s.pc.toNat ++ m.read (s.pc.toNat + 1)) :=
  fetch_ok { s with mem := m } hpc

/-- Settles O12: the fetch reads both bytes from memory, of which the store has changed one. -/
theorem storeIsSeenByTheNextFetch : Obligations.StoreIsSeenByTheNextFetch := by
  intro s b hpc
  have hhi : s.pc.toNat < 4096 := by omega
  have hlo : s.pc.toNat + 1 < 4096 := by omega
  refine ⟨⟨_, storeByte_ok s b hhi, ?_⟩, ⟨_, storeByte_ok s b hlo, ?_⟩⟩
  · rw [fetch_withMem s _ hpc, Memory.read_write_same s.mem b hhi, Memory.read_write_ne s.mem b (by omega)]
  · rw [fetch_withMem s _ hpc, Memory.read_write_ne s.mem b (by omega), Memory.read_write_same s.mem b hlo]

/-! ## The step that comes to its instruction -/

/-- What an iteration makes of the answer of its instruction: the rest of the iteration follows a next state. -/
def endIteration : Host.Outcome State Fault Refusal → Host.Outcome State Fault Refusal
  | .next t => .next t.afterStep.endTurn
  | .fault r => .fault r
  | .refused r => .refused r

/-- In an iteration that the host lets come to its step, the step executes the word at `pc`, after the draw and with `pc` moved past it (R60). -/
theorem step_eq_exec {s : State} (hrun : s.running) (hhost : s.hostLetsRun) (hpc : s.pc.toNat ≤ 0x0FFE) :
    step s = endIteration (exec (decode (wordOfBytes (s.mem.read s.pc.toNat) (s.mem.read (s.pc.toNat + 1)))) (s.drawPhase.setPc (s.pc + 2))) := by
  obtain ⟨hfaulted, hended⟩ := hrun
  obtain ⟨hstop, hfail⟩ := hhost
  have hfetch := fetch_ok s.drawPhase hpc
  simp only [State.drawPhase_mem, State.drawPhase_pc] at hfetch
  simp only [step, iteration, hfaulted, hended, hstop, hfail, hfetch, Bool.false_eq_true, if_false, State.drawPhase_pc]
  rfl

/-! ## A word placed where the step fetches -/

/-- A word is its two bytes, the high one first (R42). -/
theorem wordOfBytes_extractLsb' (op : Word) : wordOfBytes (op.extractLsb' 8 8) (op.extractLsb' 0 8) = op :=
  BitVec.extractLsb'_append_extractLsb' (w := 8) (len := 8)

theorem decodeTableWord_eq_decode (nbits w : Nat) : decodeTableWord nbits w = some (decode (BitVec.ofNat 16 (w % 2 ^ nbits))) := by
  simp only [decodeTableWord, decodeBytes, wordOfBytes_extractLsb']

theorem State.placeWord_read_pc (s : State) (op : Word) (hpc : s.pc.toNat ≤ 0x0FFE) :
    (s.placeWord op).mem.read s.pc.toNat = op.extractLsb' 8 8 := by
  simp only [State.placeWord, Memory.writeBytes]
  rw [Memory.read_write_ne _ _ (by omega), Memory.read_write_same _ _ (by omega)]

theorem State.placeWord_read_pc_succ (s : State) (op : Word) (hpc : s.pc.toNat ≤ 0x0FFE) :
    (s.placeWord op).mem.read (s.pc.toNat + 1) = op.extractLsb' 0 8 := by
  simp only [State.placeWord, Memory.writeBytes]
  rw [Memory.read_write_same _ _ (by omega)]

/-- The word that a fetch puts together is the one placed. -/
theorem State.placeWord_word (s : State) (op : Word) (hpc : s.pc.toNat ≤ 0x0FFE) :
    wordOfBytes ((s.placeWord op).mem.read s.pc.toNat) ((s.placeWord op).mem.read (s.pc.toNat + 1)) = op := by
  rw [s.placeWord_read_pc op hpc, s.placeWord_read_pc_succ op hpc, wordOfBytes_extractLsb']

theorem State.placeWord_read_ne (s : State) (op : Word) {a : Nat} (hhi : a ≠ s.pc.toNat) (hlo : a ≠ s.pc.toNat + 1) :
    (s.placeWord op).mem.read a = s.mem.read a := by
  simp only [State.placeWord, Memory.writeBytes]
  rw [Memory.read_write_ne _ _ hlo, Memory.read_write_ne _ _ hhi]

/-- Settles O11: the host lets the iteration run, and what it fetches is the word placed. -/
theorem placedWordIsRunNext : Obligations.PlacedWordIsRunNext := by
  intro s w hrun hpc _
  refine ⟨⟨_, decodeTableWord_eq_decode 16 w, ?_⟩, fun a hhi hlo => s.placeWord_read_ne _ hhi hlo, rfl⟩
  have hhost : (s.withFetchWord 16 w).hostLetsRun := ⟨rfl, nofun⟩
  have hword : wordOfBytes ((s.withFetchWord 16 w).mem.read s.pc.toNat) ((s.withFetchWord 16 w).mem.read (s.pc.toNat + 1)) =
      BitVec.ofNat 16 (w % 2 ^ 16) := s.placeWord_word _ hpc
  rw [← hword]
  exact step_eq_exec hrun hhost hpc

end Sys2Proof.Machine
end

section
/-! SUPPORT. What `decode` answers, said once from the table of R66 (R64, R65, R67), and the class table of R170 held against it. -/

namespace Sys2Proof

section
variable {r r' : OpRow} {w : Word}

/-! ## The one row that a word selects -/

theorem OpRow.and_mask_of_selects (h : r.selects w = true) : w &&& r.mask = r.pattern := beq_iff_eq.mp h

/-- The patterns of two rows that a word selects agree on every bit that both masks keep: it is the word's bit. -/
theorem OpRow.patterns_agree (h : r.selects w = true) (h' : r'.selects w = true) :
    (r.pattern ^^^ r'.pattern) &&& (r.mask &&& r'.mask) = 0 := by
  rw [← OpRow.and_mask_of_selects h, ← OpRow.and_mask_of_selects h']
  apply BitVec.eq_of_getLsbD_eq
  intro k hk
  simp only [BitVec.getLsbD_and, BitVec.getLsbD_xor]
  cases r.mask.getLsbD k <;> cases r'.mask.getLsbD k <;> simp

/-- The rows are disjoint (R65), so that a word selects at most one. -/
theorem row_unique (hr : r ∈ opcodeRows) (hr' : r' ∈ opcodeRows) (h : r.selects w = true) (h' : r'.selects w = true) : r = r' := by
  have hone : opcodeRows.Pairwise (fun a b => a.selects w = true → b.selects w = true → a = b) :=
    opcodeRows_disjoint.imp (fun hne ha hb => absurd (OpRow.patterns_agree ha hb) hne)
  have hflip := hone.imp (fun hab hb ha => (hab ha hb).symm)
  exact hone.forall_of_forall_of_flip (fun _ _ _ _ => rfl) hflip hr hr' h h'

theorem decode_of_selects (hr : r ∈ opcodeRows) (h : r.selects w = true) : decode w = r.build w := by
  obtain ⟨r', hfind⟩ := Option.isSome_iff_exists.mp (List.find?_isSome (p := fun r : OpRow => r.selects w) |>.mpr ⟨r, hr, h⟩)
  have hsel : r'.selects w = true := List.find?_some (p := fun r : OpRow => r.selects w) hfind
  simp only [decode, hfind, row_unique (List.mem_of_find?_eq_some hfind) hr hsel h]

theorem decode_of_no_row (h : ∀ r ∈ opcodeRows, r.selects w = false) : decode w = .unimpl w := by
  have hfind : opcodeRows.find? (fun r => r.selects w) = none := List.find?_eq_none.mpr (fun r hr => by simp [h r hr])
  simp only [decode, hfind]

end

/-! ## The class table (R170) -/

theorem quad_low_nibble (c x y n : Nibble) : (quad c x y n).extractLsb' 0 4 = n := quad_n ..

theorem quad_low_byte (c x y n : Nibble) : (quad c x y n).extractLsb' 0 8 = y ++ n := quad_nn ..

theorem cls_word_quad : (0x00E0 : Word) = quad 0x0 0x0 0xE 0x0 := rfl

theorem ret_word_quad : (0x00EE : Word) = quad 0x0 0x0 0xE 0xE := rfl

/-- R170's list against the masks of R66, by the sixteen classes. In fourteen of them the two conditions simplify to the same one; class 8 is
left with R170's codes against those that R66 does not name, class F with the low bytes in two orders. -/
theorem unimplementedWord_iff (w : Word) : unimplementedWord w = true ↔ ∀ r ∈ opcodeRows, r.selects w = false := by
  obtain ⟨c, x, y, n, rfl⟩ := word_quad w
  rw [rows_forall, rowsControlAndLoad_quad, rowsAlu_quad, rowsIndexAndEnvironment_quad]
  simp only [unimplementedWord, quad_cls, quad_low_nibble, quad_low_byte, cls_word_quad, ret_word_quad, List.forall_mem_cons,
    OpRow.selects_quad]
  revert c
  refine nibble_cases (fun k hk => ?_)
  interval_cases k <;> simp [quad_inj, byte_pair_eq]
  · revert n; decide
  · grind

/-- Settles O4: a word selects at most one row, which `decode` finds. -/
theorem wordSelectsItsRow : Obligations.WordSelectsItsRow := fun w =>
  ⟨fun _ => decode_of_selects, fun _ hr _ hr' h h' => congrArg OpRow.mnemonic (row_unique hr hr' h h'), decode_of_no_row,
    unimplementedWord_iff w⟩

/-- Settles O1, by evaluating `decode` on the words listed. -/
theorem sampleWordsDecode : Obligations.SampleWordsDecode := by
  unfold Obligations.SampleWordsDecode
  decide

end Sys2Proof
end

section
/-! SUPPORT. The round trips between words and instructions (R61 to R66). -/

namespace Sys2Proof

/-! ## Decode after encode -/

section
open Laws.EncodeRow

/-- The family `EncodeRow`, for every instruction. -/
theorem encode_selects_row : ∀ i : Instr, Statement i
  | .cls => cls
  | .ret => ret
  | .jp nnn => jp nnn
  | .call nnn => call nnn
  | .seImm x nn => seImm x nn
  | .sneImm x nn => sneImm x nn
  | .seReg x y => seReg x y
  | .sneReg x y => sneReg x y
  | .ldImm x nn => ldImm x nn
  | .addImm x nn => addImm x nn
  | .ldReg x y => ldReg x y
  | .orReg x y => orReg x y
  | .andReg x y => andReg x y
  | .xorReg x y => xorReg x y
  | .addReg x y => addReg x y
  | .sub x y => sub x y
  | .subn x y => subn x y
  | .shr x y => shr x y
  | .shl x y => shl x y
  | .ldI nnn => ldI nnn
  | .jpOff nnn => jpOff nnn
  | .rnd x nn => rnd x nn
  | .drw x y n => drw x y n
  | .skp x => skp x
  | .sknp x => sknp x
  | .ldVxDt x => ldVxDt x
  | .ldDtVx x => ldDtVx x
  | .ldStVx x => ldStVx x
  | .addI x => addI x
  | .ldVxKey x => ldVxKey x
  | .ldFont x => ldFont x
  | .bcd x => bcd x
  | .stRegs x => stRegs x
  | .ldRegs x => ldRegs x
  | .unimpl w => unimpl w

end

/-- Settles O2: the row that the encoding selects builds the instruction, and a well-formed `unimpl` is a word that selects no row. -/
theorem decodeAfterEncode : Obligations.DecodeAfterEncode := by
  intro i hwf
  rcases encode_selects_row i with ⟨r, hr, hsel, hbuild⟩ | ⟨w, rfl, -⟩
  · rw [decode_of_selects hr hsel, hbuild]
  · exact decode_of_no_row ((unimplementedWord_iff w).mp hwf)

/-! ## Encode after decode

One lemma per format of R63: a word that selects a row of the format is put together again from its fields. -/

section
variable {m : String} {b : Word → Instr} {c y n : Nibble} {w : Word}

theorem formatZ_of_selects {x : Nibble} (h : OpRow.selects ⟨m, quad c x y n, quad 0xF 0xF 0xF 0xF, b⟩ w = true) : quad c x y n = w := by
  obtain ⟨c', x', y', n', rfl⟩ := word_quad w
  obtain ⟨rfl, rfl, rfl, rfl⟩ : c' = c ∧ x' = x ∧ y' = y ∧ n' = n := by simpa [OpRow.selects_quad, and_assoc] using h
  rfl

theorem formatA_of_selects (h : OpRow.selects ⟨m, quad c 0x0 0x0 0x0, quad 0xF 0x0 0x0 0x0, b⟩ w = true) :
    formatA c (fieldNNN w) = w := by
  obtain ⟨c', x', y', n', rfl⟩ := word_quad w
  obtain rfl : c' = c := by simpa [OpRow.selects_quad] using h
  rw [quad_nnn, formatA_quad]

theorem formatXB_of_selects (h : OpRow.selects ⟨m, quad c 0x0 0x0 0x0, quad 0xF 0x0 0x0 0x0, b⟩ w = true) :
    formatXB c (fieldX w) (fieldNN w) = w := by
  obtain ⟨c', x', y', n', rfl⟩ := word_quad w
  obtain rfl : c' = c := by simpa [OpRow.selects_quad] using h
  rw [quad_x, quad_nn, formatXB_quad]

theorem formatXF_of_selects (h : OpRow.selects ⟨m, quad c 0x0 y n, quad 0xF 0x0 0xF 0xF, b⟩ w = true) :
    formatXB c (fieldX w) (y ++ n) = w := by
  obtain ⟨c', x', y', n', rfl⟩ := word_quad w
  obtain ⟨rfl, rfl, rfl⟩ : c' = c ∧ y' = y ∧ n' = n := by simpa [OpRow.selects_quad, and_assoc] using h
  rw [quad_x, formatXB_quad]

theorem formatXY_of_selects (h : OpRow.selects ⟨m, quad c 0x0 0x0 n, quad 0xF 0x0 0x0 0xF, b⟩ w = true) :
    formatXYN c (fieldX w) (fieldY w) n = w := by
  obtain ⟨c', x', y', n', rfl⟩ := word_quad w
  obtain ⟨rfl, rfl⟩ : c' = c ∧ n' = n := by simpa [OpRow.selects_quad] using h
  rw [quad_x, quad_y, formatXYN_quad]

theorem formatXYN_of_selects (h : OpRow.selects ⟨m, quad c 0x0 0x0 0x0, quad 0xF 0x0 0x0 0x0, b⟩ w = true) :
    formatXYN c (fieldX w) (fieldY w) (fieldN w) = w := by
  obtain ⟨c', x', y', n', rfl⟩ := word_quad w
  obtain rfl : c' = c := by simpa [OpRow.selects_quad] using h
  rw [quad_x, quad_y, quad_n, formatXYN_quad]

end

/-! The rows in the order of the table, each by the lemma of its format. -/

theorem rowsControlAndLoad_encode_build (w : Word) : ∀ r ∈ rowsControlAndLoad, r.selects w = true → encode (r.build w) = w := by
  rw [rowsControlAndLoad_quad]
  simp only [List.forall_mem_cons]
  exact ⟨formatZ_of_selects, formatZ_of_selects, formatA_of_selects, formatA_of_selects, formatXB_of_selects, formatXB_of_selects,
    formatXY_of_selects, formatXY_of_selects, formatXB_of_selects, formatXB_of_selects, nofun⟩

theorem rowsAlu_encode_build (w : Word) : ∀ r ∈ rowsAlu, r.selects w = true → encode (r.build w) = w := by
  rw [rowsAlu_quad]
  simp only [List.forall_mem_cons]
  refine ⟨?_, ?_, ?_, ?_, ?_, ?_, ?_, ?_, ?_, nofun⟩
  all_goals exact formatXY_of_selects

theorem rowsIndexAndEnvironment_encode_build (w : Word) :
    ∀ r ∈ rowsIndexAndEnvironment, r.selects w = true → encode (r.build w) = w := by
  rw [rowsIndexAndEnvironment_quad]
  simp only [List.forall_mem_cons]
  refine ⟨formatA_of_selects, formatA_of_selects, formatXB_of_selects, formatXYN_of_selects,
    ?_, ?_, ?_, ?_, ?_, ?_, ?_, ?_, ?_, ?_, ?_, nofun⟩
  all_goals exact formatXF_of_selects

theorem encode_build (w : Word) : ∀ r ∈ opcodeRows, r.selects w = true → encode (r.build w) = w :=
  (rows_forall _).mpr ⟨rowsControlAndLoad_encode_build w, rowsAlu_encode_build w, rowsIndexAndEnvironment_encode_build w⟩

/-- No row builds an `unimpl`. -/
theorem wf_build (w : Word) : ∀ r ∈ opcodeRows, (r.build w).wf = true :=
  List.all_eq_true.mp (rfl : opcodeRows.all (fun r => (r.build w).wf) = true)

/-- Settles O3: a word that selects a row is put together again from that row's fields; a word that selects none is its own encoding, and the
class table lists it. -/
theorem encodeAfterDecode : Obligations.EncodeAfterDecode := by
  intro w
  by_cases h : ∃ r ∈ opcodeRows, r.selects w = true
  · obtain ⟨r, hr, hsel⟩ := h
    rw [decode_of_selects hr hsel]
    exact ⟨encode_build w r hr hsel, wf_build w r hr⟩
  · have hno : ∀ r ∈ opcodeRows, r.selects w = false := by simpa using h
    rw [decode_of_no_row hno]
    exact ⟨rfl, (unimplementedWord_iff w).mpr hno⟩

end Sys2Proof
end

section
/-! SUPPORT. What a step answers, from whether it is taken and from its fetch (R60, R180, R216). -/

namespace Sys2Proof.Machine

/-- Settles O5, by the law of the step that comes to its instruction. -/
theorem stepRunsTheDecodedInstruction : Obligations.StepRunsTheDecodedInstruction := by
  rintro s i hrun hhost hpc rfl
  exact step_eq_exec hrun hhost hpc

/-- In an iteration that the host lets come to its step, a fetch that leaves memory ends the iteration at its fault. -/
theorem step_eq_fetch_fault {s : State} (hrun : s.running) (hhost : s.hostLetsRun) (hpc : 0x0FFF ≤ s.pc.toNat) :
    step s = .next (s.drawPhase.raise .memOob (if s.pc.toNat = 0x0FFF then 0x1000 else s.pc.toNat)).endTurn := by
  obtain ⟨hfaulted, hended⟩ := hrun
  obtain ⟨hstop, hfail⟩ := hhost
  have hfetch := fetch_error s.drawPhase hpc
  simp only [step, iteration, hfaulted, hended, hstop, hfail, hfetch, Bool.false_eq_true, if_false]
  rfl

/-- Settles O7: the address reported fits INFO, since `pc` has 16 bits. -/
theorem fetchOutsideMemoryFaults : Obligations.FetchOutsideMemoryFaults := by
  intro s hrun hhost hpc
  have hlt := s.pc.isLt
  refine ⟨_, step_eq_fetch_fault hrun hhost hpc, rfl, rfl, ?_, rfl⟩
  exact (BitVec.toNat_ofNat ..).trans (Nat.mod_eq_of_lt (by split <;> omega))

/-- Settles O8: the step asks for FAULTED and then for the normal end before anything else. -/
theorem stoppedMachineTakesNoStep : Obligations.StoppedMachineTakesNoStep := by
  intro s
  refine ⟨fun hfaulted => ?_, fun hfaulted hended => ?_⟩
  · simp only [step, iteration, hfaulted, if_true]
  · simp only [step, iteration, hfaulted, hended, Bool.false_eq_true, if_false, if_true]

end Sys2Proof.Machine
end

section
/-! SUPPORT. Exact encodings: each instruction is the reading of one word and of no other (R61 to R67). Both directions come from the round trips. -/

namespace Sys2Proof

/-- The word of a well-formed instruction, and no other, decodes to it. -/
theorem decode_eq_iff {i : Instr} (hwf : i.wf = true) (w : Word) : decode w = i ↔ w = encode i := by
  constructor
  · rintro rfl
    exact (encodeAfterDecode w).1.symm
  · rintro rfl
    exact decodeAfterEncode i hwf

theorem decode_of_unimplementedWord {w : Word} (h : unimplementedWord w = true) : decode w = .unimpl w :=
  decodeAfterEncode (.unimpl w) h

/-- A word of class 5 or 9 with N other than 0 is unimplemented (R170). -/
theorem unimplementedWord_class_5_9 {c n : Nibble} (x y : Nibble) (hc : c = 0x5 ∨ c = 0x9) (hn : n ≠ 0x0#4) :
    unimplementedWord (quad c x y n) = true := by
  obtain rfl | rfl := hc
  · simp [unimplementedWord, quad_low_nibble, hn]
  · simp [unimplementedWord, quad_low_nibble, hn]

end Sys2Proof
end

section
/-! SUPPORT. Control transfer (R80 to R88). -/

namespace Sys2Proof.Machine

/-! ## Jumps -/

/-- An address of 12 bits keeps its value in `pc`. -/
@[simp] theorem zext16_toNat (nnn : Addr12) : (zext16 nnn).toNat = nnn.toNat := BitVec.toNat_setWidth_of_le (by omega)

/-- The target of `BNNN` is at most 0x0FFF + 0xFF, so that 16 bits hold the exact sum. -/
theorem jumpOffset_target_toNat (nnn : Addr12) (a : Byte) : (BitVec.ofNat 16 (nnn.toNat + a.toNat)).toNat = nnn.toNat + a.toNat := by
  have hnnn := nnn.isLt
  have ha := a.isLt
  exact (BitVec.toNat_ofNat ..).trans (Nat.mod_eq_of_lt (by omega))

/-- Settles O23: `pc` is written with NNN widened by zeros, which keeps its value. -/
theorem jumpSetsPc : Obligations.JumpSetsPc := fun nnn s =>
  ⟨decode_eq_iff (i := .jp nnn) rfl, s.setPc (zext16 nnn), rfl, zext16_toNat nnn, rfl⟩

/-- Settles O28: no wrap at 16 bits, since the sum is too small for it. -/
theorem jumpOffsetAddsRegister : Obligations.JumpOffsetAddsRegister := fun nnn s =>
  ⟨decode_eq_iff (i := .jpOff nnn) rfl, _, rfl, jumpOffset_target_toNat nnn (jumpOffset s nnn), rfl⟩

/-! ## Calls and returns -/

/-- Two states with the same stack hold the same entries. -/
theorem State.entry_congr {s t : State} (h : t.stack = s.stack) (j : Nat) : t.entry j = s.entry j := by
  rw [State.entry, State.entry, h]

/-- A call with room on the stack: push, then jump (R83). -/
theorem exec_call_ok (nnn : Addr12) {s : State} (h : s.sp < 128) :
    exec (.call nnn) s = .next ((s.pushed s.pc).setPc (zext16 nnn)) := execCall_ok nnn s h

/-- Settles O24, from what a call does on either side of SP = 128. -/
theorem callPushesAndJumps : Obligations.CallPushesAndJumps := by
  intro nnn s hs
  refine ⟨decode_eq_iff (i := .call nnn) rfl, fun h => ?_, fun h => ?_⟩
  · have hlt : s.sp < 128 := by omega
    have hentry := s.entry_pushed s.pc hlt
    refine ⟨_, exec_call_ok nnn hlt, zext16_toNat nnn, rfl, ?_, fun j hj => ?_, rfl⟩
    · exact (hentry s.sp).trans (if_pos rfl)
    · exact (hentry j).trans (if_neg hj)
  · exact ⟨_, execCall_fault nnn s h.ge, rfl, rfl, by simp, rfl⟩

/-- Settles O25, from what a return does on either side of SP = 0. -/
theorem returnPopsPc : Obligations.ReturnPopsPc := fun s _ =>
  ⟨decode_eq_iff (i := .ret) rfl, fun h => ⟨_, execRet_ok s (Nat.pos_of_ne_zero h), rfl, rfl, rfl⟩,
    fun h => ⟨_, execRet_fault s h, rfl, rfl, rfl, rfl⟩⟩

/-- Settles O22: the return pops the entry at the SP of the call, where the call pushed its post-fetch `pc`. -/
theorem returnAfterCallRestoresPc : Obligations.ReturnAfterCallRestoresPc := by
  intro nnn s hs
  refine ⟨_, exec_call_ok nnn hs, fun u hstack hsp => ?_⟩
  have hsp' : u.sp = s.sp + 1 := hsp
  have htop : u.entry (u.sp - 1) = s.pc := by
    rw [State.entry_congr (s := s.pushed s.pc) hstack, State.entry_pushed s s.pc hs, if_pos (by omega)]
  exact ⟨_, execRet_ok u (by omega), htop, by simp only [hsp', Nat.add_sub_cancel], rfl⟩

/-! ## Skips -/

theorem State.skipIf_beq_pc (s : State) (a b : Byte) : (s.skipIf (a == b)).pc = if a = b then s.pc + 2 else s.pc := by
  rw [State.skipIf_pc]
  simp only [beq_iff_eq]

/-- Skipping on inequality is the complement of skipping on equality (R85, R87). -/
theorem State.skipIf_bne_pc (s : State) (a b : Byte) : (s.skipIf (a != b)).pc = if a = b then s.pc else s.pc + 2 := by
  rw [State.skipIf_pc]
  simp only [bne_iff_ne, ite_not]

/-- Settles O26, from the two laws of a conditional skip. -/
theorem skipsOnImmediate : Obligations.SkipsOnImmediate := fun x nn s =>
  ⟨decode_eq_iff (i := .seImm x nn) rfl, decode_eq_iff (i := .sneImm x nn) rfl,
    ⟨_, rfl, s.skipIf_beq_pc (s.getV x) nn, rfl⟩, ⟨_, rfl, s.skipIf_bne_pc (s.getV x) nn, rfl⟩⟩

/-- Settles O27; the words with N other than 0 are in the class table of R170, and an unimplemented word leaves `pc` alone. -/
theorem skipsOnRegister : Obligations.SkipsOnRegister := by
  intro x y s
  refine ⟨decode_eq_iff (i := .seReg x y) rfl, decode_eq_iff (i := .sneReg x y) rfl, fun n hn => ?_,
    ⟨_, rfl, s.skipIf_beq_pc (s.getV x) (s.getV y), rfl⟩, ⟨_, rfl, s.skipIf_bne_pc (s.getV x) (s.getV y), rfl⟩⟩
  have h5 : decode (0x5#4 ++ x ++ y ++ n) = .unimpl (0x5#4 ++ x ++ y ++ n) :=
    decode_of_unimplementedWord (unimplementedWord_class_5_9 x y (.inl rfl) hn)
  have h9 : decode (0x9#4 ++ x ++ y ++ n) = .unimpl (0x9#4 ++ x ++ y ++ n) :=
    decode_of_unimplementedWord (unimplementedWord_class_5_9 x y (.inr rfl) hn)
  refine ⟨h5, h9, ?_, ?_⟩
  · rw [h5]; exact ⟨_, rfl, rfl⟩
  · rw [h9]; exact ⟨_, rfl, rfl⟩

end Sys2Proof.Machine
end

section
/-! SUPPORT. Register load, arithmetic and logic (R100 to R112). -/

namespace Sys2Proof.Machine

/-! ## Results and flags (R112)

The result of each operation as a natural number, and the byte that its flag writes to VF. -/

theorem flagByte_decide (p : Prop) [Decidable p] : flagByte (decide p) = if p then 1 else 0 := by
  simp only [flagByte, decide_eq_true_eq]

/-- A flag that asks whether a bit is 1 writes that bit. -/
theorem flagByte_bit_toNat {n : Nat} (h : n < 2) : (flagByte (decide (n = 1))).toNat = n := by
  rw [flagByte_decide]
  obtain rfl | rfl : n = 0 ∨ n = 1 := by omega
  · rfl
  · rfl

theorem addCarry_toNat (a b : Byte) : (addCarry a b).1.toNat = (a.toNat + b.toNat) % 256 := BitVec.toNat_ofNat ..

theorem addCarry_flag (a b : Byte) : flagByte (addCarry a b).2 = if 256 ≤ a.toNat + b.toNat then 1 else 0 := flagByte_decide _

/-- The integer difference modulo 256: a borrow adds 256. -/
theorem subNoBorrow_toNat (a b : Byte) :
    (subNoBorrow a b).1.toNat = if b.toNat ≤ a.toNat then a.toNat - b.toNat else a.toNat + 256 - b.toNat := by
  have ha := a.isLt
  have hb := b.isLt
  have hmod : (subNoBorrow a b).1.toNat = (((a.toNat : Int) - b.toNat) % 256).toNat := BitVec.toNat_ofInt ..
  rw [hmod]
  split <;> omega

/-- The difference is not negative when the subtrahend is the smaller one or equal. -/
theorem subNoBorrow_flag (a b : Byte) : flagByte (subNoBorrow a b).2 = if b.toNat ≤ a.toNat then 1 else 0 := by
  simp only [subNoBorrow, flagByte_decide, Int.sub_nonneg, Int.ofNat_le]

theorem shiftRightOut_toNat (a : Byte) : (shiftRightOut a).1.toNat = a.toNat / 2 := by
  have ha := a.isLt
  exact (BitVec.toNat_ofNat ..).trans (Nat.mod_eq_of_lt (by omega))

theorem shiftRightOut_flag_toNat (a : Byte) : (flagByte (shiftRightOut a).2).toNat = a.toNat % 2 :=
  flagByte_bit_toNat (Nat.mod_lt _ (by decide))

theorem shiftLeftOut_toNat (a : Byte) : (shiftLeftOut a).1.toNat = 2 * a.toNat % 256 := BitVec.toNat_ofNat ..

theorem shiftLeftOut_flag_toNat (a : Byte) : (flagByte (shiftLeftOut a).2).toNat = a.toNat / 128 := by
  have ha := a.isLt
  exact flagByte_bit_toNat (by omega)

/-! ## The arithmetic with a flag (R107 to R111)

Each writes a result and then VF (R100), so each statement is the law of that write and the law of the operation. -/

/-- What VF reads as after the two writes, as a number. -/
theorem State.setResultThenFlag_flag_toNat (s : State) (x : Reg) (r : Byte × Bool) :
    ((s.setResultThenFlag x r).getV regVF).toNat = (flagByte r.2).toNat :=
  congrArg BitVec.toNat (s.setResultThenFlag_flag x r)

/-- What a destination other than VF reads as after the two writes, as a number. -/
theorem State.setResultThenFlag_result_toNat (s : State) {x : Reg} (r : Byte × Bool) (h : x ≠ regVF) :
    ((s.setResultThenFlag x r).getV x).toNat = r.1.toNat :=
  congrArg BitVec.toNat (s.setResultThenFlag_result r h)

/-- Settles O31: the operands are those of the state before, whichever of X and Y is 15. -/
theorem addSetsCarry : Obligations.AddSetsCarry := fun x y s =>
  ⟨decode_eq_iff (i := .addReg x y) rfl, _, rfl, (s.setResultThenFlag_flag x _).trans (addCarry_flag ..),
    fun hx => (s.setResultThenFlag_result_toNat _ hx).trans (addCarry_toNat ..), fun _ => s.setResultThenFlag_other _, rfl⟩

/-- Settles O32: `8XY7` is `8XY5` with the operands exchanged, so that one law of the difference serves both. -/
theorem subtractSetsNoBorrow : Obligations.SubtractSetsNoBorrow := by
  intro x y s
  refine ⟨decode_eq_iff (i := .sub x y) rfl, decode_eq_iff (i := .subn x y) rfl, ?_, ?_⟩
  all_goals
    exact ⟨_, rfl, (s.setResultThenFlag_flag x _).trans (subNoBorrow_flag ..),
      fun hx => (s.setResultThenFlag_result_toNat _ hx).trans (subNoBorrow_toNat ..), fun _ => s.setResultThenFlag_other _, rfl⟩

/-- Settles O33: the source named by the statement is the model's `shiftSource`. -/
theorem shiftsReportTheBitShiftedOut : Obligations.ShiftsReportTheBitShiftedOut := by
  intro x y a s ha
  obtain rfl : a = shiftSource s x y := ha
  refine ⟨decode_eq_iff (i := .shr x y) rfl, decode_eq_iff (i := .shl x y) rfl, ?_, ?_⟩
  · exact ⟨_, rfl, (s.setResultThenFlag_flag_toNat x _).trans (shiftRightOut_flag_toNat _),
      fun hx => (s.setResultThenFlag_result_toNat _ hx).trans (shiftRightOut_toNat _), fun _ => s.setResultThenFlag_other _, rfl⟩
  · exact ⟨_, rfl, (s.setResultThenFlag_flag_toNat x _).trans (shiftLeftOut_flag_toNat _),
      fun hx => (s.setResultThenFlag_result_toNat _ hx).trans (shiftLeftOut_toNat _), fun _ => s.setResultThenFlag_other _, rfl⟩

/-! ## Loads and logic without a flag (R101 to R106)

Each is one write of V[X]. -/

/-- Settles O29, from what a register reads as after one write. -/
theorem loadsAndAddImmediate : Obligations.LoadsAndAddImmediate := by
  intro x y nn s
  refine ⟨decode_eq_iff (i := .ldImm x nn) rfl, decode_eq_iff (i := .addImm x nn) rfl, decode_eq_iff (i := .ldReg x y) rfl, ?_, ?_, ?_⟩
  · exact ⟨_, rfl, s.getV_setV_same x nn, fun _ => s.getV_setV_ne _, rfl⟩
  · exact ⟨_, rfl, (congrArg BitVec.toNat (s.getV_setV_same x _)).trans (addCarry_toNat ..), fun _ => s.getV_setV_ne _, rfl⟩
  · exact ⟨_, rfl, s.getV_setV_same x _, fun _ => s.getV_setV_ne _, rfl⟩

/-- Settles O30: the byte written is the bitwise operation, read bit by bit. -/
theorem logicLeavesVF : Obligations.LogicLeavesVF := by
  intro x y s
  refine ⟨decode_eq_iff (i := .orReg x y) rfl, decode_eq_iff (i := .andReg x y) rfl, decode_eq_iff (i := .xorReg x y) rfl, ?_, ?_, ?_⟩
  · exact ⟨_, rfl, fun k => by rw [State.getV_setV_same, BitVec.getLsbD_or], fun _ => s.getV_setV_ne _, rfl⟩
  · exact ⟨_, rfl, fun k => by rw [State.getV_setV_same, BitVec.getLsbD_and], fun _ => s.getV_setV_ne _, rfl⟩
  · exact ⟨_, rfl, fun k => by rw [State.getV_setV_same, BitVec.getLsbD_xor], fun _ => s.getV_setV_ne _, rfl⟩

end Sys2Proof.Machine
end

section
/-! SUPPORT. The index register and memory transfers (R120 to R126). -/

namespace Sys2Proof.Machine

/-! ## The index register -/

/-- Settles O34: `I` is written with NNN widened by zeros, which keeps its value. -/
theorem loadIndex : Obligations.LoadIndex := fun nnn s =>
  ⟨decode_eq_iff (i := .ldI nnn) rfl, s.setI (zext16 nnn), rfl, zext16_toNat nnn, rfl⟩

theorem addIndex_toNat (i : Word) (a : Byte) : (addIndex i a).1.toNat = (i.toNat + a.toNat) % 65536 := BitVec.toNat_ofNat ..

/-- The flag asks whether the exact sum needs more than 12 bits. -/
theorem addIndex_flag (i : Word) (a : Byte) : (addIndex i a).2 = true ↔ 0x0FFF < i.toNat + a.toNat := decide_eq_true_iff

/-- Settles O35: VF is the only register written, with the flag or with the value it had, also where X is 15. -/
theorem addIndexFlagsPast12Bits : Obligations.AddIndexFlagsPast12Bits := by
  intro x s
  refine ⟨decode_eq_iff (i := .addI x) rfl, _, rfl, addIndex_toNat s.i (s.getV x), ?_, fun r hr => State.getV_setV_ne _ _ hr, rfl⟩
  rw [State.getV_setV_same]
  exact if_congr (addIndex_flag s.i (s.getV x)) rfl rfl

/-- The glyphs of all 256 values of a byte start below 65536, so that 16 bits hold the exact address. -/
theorem glyphAddress_toNat (d : Byte) : (glyphAddress d).toNat = 0x50 + 5 * d.toNat := by
  have hd := d.isLt
  exact (BitVec.toNat_ofNat ..).trans (Nat.mod_eq_of_lt (by omega))

theorem execLdFont_ok (x : Reg) (s : State) (h : (s.getV x).toNat ≤ 15) :
    execLdFont x s = .next (s.setI (glyphAddress (s.getV x))) := if_neg h.not_gt

theorem execLdFont_fault (x : Reg) (s : State) (h : 15 < (s.getV x).toNat) :
    execLdFont x s = .next (s.raise .glyphRange (s.getV x).toNat) := if_pos h

/-- Settles O36, from what `FX29` answers on either side of 15. -/
theorem fontAddressOfDigit : Obligations.FontAddressOfDigit := by
  intro x s
  refine ⟨decode_eq_iff (i := .ldFont x) rfl, fun h => ?_, fun h => ?_⟩
  · exact ⟨_, execLdFont_ok x s h, glyphAddress_toNat (s.getV x), rfl⟩
  · have hbyte := (s.getV x).isLt
    exact ⟨_, execLdFont_fault x s h, rfl, rfl, (BitVec.toNat_ofNat ..).trans (Nat.mod_eq_of_lt (by omega)), rfl⟩

/-! ## Addresses of a transfer from I on -/

/-- When the last byte of a transfer is in memory, all are. -/
theorem State.ea_lt_of_last_lt {s : State} {n : Nat} (h : s.ea n < 4096) : ∀ j, j < n + 1 → s.ea j < 4096 := by
  intro j hj
  simp only [State.ea] at h ⊢
  omega

/-- An address before the first or after the last of a transfer is none of its addresses. -/
theorem State.ne_ea_of_outside {s : State} {a n : Nat} (h : a < s.ea 0 ∨ s.ea n < a) : ∀ j, j < n + 1 → a ≠ s.ea j := by
  intro j hj
  simp only [State.ea] at h ⊢
  omega

/-! ## Memory after a transfer of n bytes to I on -/

section
variable {s : State} {bs : List Byte} {n : Nat} (hlen : bs.length = n) (hin : ∀ j, j < n → s.ea j < 4096)
include hlen hin

theorem State.read_stored {j : Nat} (hj : j < n) : (s.mem.writeBytes (s.ea 0) bs).read (s.ea j) = bs.getD j 0 := by
  subst hlen
  have hmem : ∀ k, k < bs.length → s.ea 0 + k < 4096 := hin
  rw [Memory.read_writeBytes_of_lt bs s.mem _ _ hmem, if_pos (by simp only [State.ea]; omega)]
  congr 1
  simp only [State.ea]
  omega

theorem State.read_not_stored {a : Nat} (ha : ∀ j, j < n → a ≠ s.ea j) : (s.mem.writeBytes (s.ea 0) bs).read a = s.mem.read a := by
  subst hlen
  have hmem : ∀ k, k < bs.length → s.ea 0 + k < 4096 := hin
  rw [Memory.read_writeBytes_of_lt bs s.mem _ _ hmem, if_neg]
  rintro ⟨hle, hlt⟩
  refine ha (a - s.ea 0) (by omega) ?_
  simp only [State.ea] at hle ⊢
  omega

end

/-- A transfer that stops at byte k has stored the bytes before it. -/
theorem State.read_stored_take {s : State} {bs : List Byte} {k : Nat} (hk : k ≤ bs.length) (hin : ∀ j, j < k → s.ea j < 4096) {j : Nat}
    (hj : j < k) : (s.mem.writeBytes (s.ea 0) (bs.take k)).read (s.ea j) = bs.getD j 0 := by
  rw [State.read_stored (List.length_take_of_le hk) hin hj, List.getD_eq_getElem?_getD, List.getElem?_take_of_lt hj,
    ← List.getD_eq_getElem?_getD]

/-! ## Decimal digits -/

theorem decimalDigits_length (b : Byte) : (decimalDigits b).length = 3 := rfl

theorem decimalDigits_hundreds (b : Byte) : ((decimalDigits b).getD 0 0).toNat = b.toNat / 100 := by
  have hb := b.isLt
  exact (BitVec.toNat_ofNat ..).trans (Nat.mod_eq_of_lt (by omega))

theorem decimalDigits_tens (b : Byte) : ((decimalDigits b).getD 1 0).toNat = b.toNat / 10 % 10 :=
  (BitVec.toNat_ofNat ..).trans (Nat.mod_eq_of_lt (by omega))

theorem decimalDigits_ones (b : Byte) : ((decimalDigits b).getD 2 0).toNat = b.toNat % 10 :=
  (BitVec.toNat_ofNat ..).trans (Nat.mod_eq_of_lt (by omega))

/-- Settles O37: three bytes are stored, or those before the first address outside memory. -/
theorem bcdStoresDigits : Obligations.BcdStoresDigits := by
  intro x s
  refine ⟨decode_eq_iff (i := .bcd x) rfl, fun h => ?_, fun k hk hout hin => ?_⟩
  · have hin := State.ea_lt_of_last_lt h
    have hread : ∀ j, j < 3 → (s.mem.writeBytes (s.ea 0) (decimalDigits (s.getV x))).read (s.ea j) = (decimalDigits (s.getV x)).getD j 0 :=
      fun _ => State.read_stored (decimalDigits_length _) hin
    refine ⟨_, execBcd_ok x s h, ?_, ?_, ?_, fun a ha => ?_, rfl⟩
    · exact (congrArg BitVec.toNat (hread 0 (by omega))).trans (decimalDigits_hundreds _)
    · exact (congrArg BitVec.toNat (hread 1 (by omega))).trans (decimalDigits_tens _)
    · exact (congrArg BitVec.toNat (hread 2 (by omega))).trans (decimalDigits_ones _)
    · exact State.read_not_stored (decimalDigits_length _) hin (State.ne_ea_of_outside ha)
  · have hlen : k ≤ (decimalDigits (s.getV x)).length := by rw [decimalDigits_length]; omega
    refine ⟨_, execBcd_fault x s k hk hout hin, fun j hj => ?_, fun a ha => State.read_not_stored (List.length_take_of_le hlen) hin ha, rfl, rfl,
      BitVec.toNat_ofNat .., rfl⟩
    refine (congrArg BitVec.toNat (State.read_stored_take hlen hin hj)).trans ?_
    obtain rfl | rfl : j = 0 ∨ j = 1 := by omega
    · exact decimalDigits_hundreds _
    · exact decimalDigits_tens _

/-! ## Registers to memory and back -/

/-- A transfer that stays in memory leaves `I` far from wrapping. -/
theorem advanceIndex_toNat {s : State} {x : Reg} (h : s.ea x.toNat < 4096) :
    (advanceIndex s x).i.toNat = if s.toggles.indexAdvance then s.i.toNat + x.toNat + 1 else s.i.toNat := by
  rw [State.advanceIndex_i, apply_ite BitVec.toNat, BitVec.toNat_ofNat, Nat.mod_eq_of_lt]
  simp only [State.ea] at h
  omega

/-- Settles O38: the byte that stands at I + r after the stores is the r-th of the block, which is V[r]. -/
theorem storeRegisters : Obligations.StoreRegisters := by
  intro x s
  refine ⟨decode_eq_iff (i := .stRegs x) rfl, fun h => ?_, fun k hk hout hin => ?_⟩
  · have hin := State.ea_lt_of_last_lt h
    refine ⟨_, execStRegs_ok x s h, fun r hr => ?_, fun a ha => ?_, advanceIndex_toNat h, rfl⟩
    · exact (State.read_stored (regBlock_length s x) hin (by omega)).trans (regBlock_getD s x r hr)
    · exact State.read_not_stored (regBlock_length s x) hin (State.ne_ea_of_outside ha)
  · have hlen : k ≤ (regBlock s x).length := by rw [regBlock_length]; omega
    refine ⟨_, execStRegs_fault x s k hk hout hin, fun r hr => ?_, fun a ha => State.read_not_stored (List.length_take_of_le hlen) hin ha, rfl, rfl,
      BitVec.toNat_ofNat .., rfl⟩
    exact (State.read_stored_take hlen hin hr).trans (regBlock_getD s x r (by omega))

/-- Settles O39: the loads change registers only, so that `I` and the toggles which decide on the advance are those before them. -/
theorem loadRegisters : Obligations.LoadRegisters := by
  intro x s
  refine ⟨decode_eq_iff (i := .ldRegs x) rfl, fun h => ?_, fun k hk hout hin => ?_⟩
  · obtain ⟨t, hexec, hframe, hread⟩ := execLdRegs_ok x s h
    rw [hframe] at hexec hread
    exact ⟨_, hexec, hread, advanceIndex_toNat h, rfl⟩
  · obtain ⟨t, hexec, hframe, hread⟩ := execLdRegs_fault x s k hk hout hin
    rw [hframe] at hexec hread
    exact ⟨_, hexec, hread, rfl, rfl, BitVec.toNat_ofNat .., rfl⟩

/-- Settles O40: the load reads, at the addresses of the store, the bytes stored. -/
theorem storeThenLoadRestoresRegisters : Obligations.StoreThenLoadRestoresRegisters := by
  intro x s h
  obtain ⟨-, hstore, -⟩ := storeRegisters x s
  obtain ⟨t, hexec, hstored, -⟩ := hstore h
  refine ⟨t, hexec, fun u hmem hi => ?_⟩
  have hea : ∀ k, u.ea k = s.ea k := fun k => by rw [State.ea, State.ea, hi]
  obtain ⟨-, hload, -⟩ := loadRegisters x u
  obtain ⟨w, hexec', hloaded, -⟩ := hload (by rwa [hea])
  exact ⟨w, hexec', fun r hr => by rw [hloaded r, if_pos hr, hmem, hea, hstored r hr]⟩

end Sys2Proof.Machine
end

section
/-! SUPPORT. The framebuffer unit and the display instructions (R140 to R145). -/

namespace Sys2Proof.Machine

/-! ## Clear and XOR of one cell (R141, R142) -/

/-- Settles O41: every cell of the blank grid reads 0. -/
theorem clearBlanksTheScreen : Obligations.ClearBlanksTheScreen := fun s =>
  ⟨decode_eq_iff (i := .cls) rfl, fbClear s, rfl, Grid.get_blank, rfl, rfl⟩

theorem Grid.get_put_same (g : Grid) {r c : Nat} (b : Bool) (hr : r < 32) (hc : c < 64) : (g.put r c b).get r c = b := by
  rw [Grid.get_put g r c r c b hr hc, if_pos ⟨rfl, rfl⟩]

theorem Grid.get_put_other (g : Grid) {r c r' c' : Nat} (b : Bool) (hr : r < 32) (hc : c < 64) (h : r' ≠ r ∨ c' ≠ c) :
    (g.put r c b).get r' c' = g.get r' c' := by
  rw [Grid.get_put g r c r' c' b hr hc, if_neg (by omega)]

/-- Writing back the value that a cell had undoes a write to it. -/
theorem Grid.put_put_get (g : Grid) {r c : Nat} (b : Bool) (hr : r < 32) (hc : c < 64) : (g.put r c b).put r c (g.get r c) = g := by
  refine Grid.eq_of_get fun r' c' _ _ => ?_
  by_cases h : r' = r ∧ c' = c
  · obtain ⟨rfl, rfl⟩ := h
    exact Grid.get_put_same _ _ hr hc
  · rw [Grid.get_put_other _ _ hr hc (by omega), Grid.get_put_other _ _ hr hc (by omega)]

theorem fbXor_error (s : State) {row col : Nat} (b : Bool) (h : 32 ≤ row ∨ 64 ≤ col) :
    fbXor s row col b = .error (s.raise .fbOob (row * 256 + col)) := if_pos h

/-- After one XOR the same XOR answers whether the cell was 0 and the bit is 1, and what is left of the two calls is DIRTY. -/
theorem fbXor_fbXor (s : State) {row col : Nat} (b : Bool) (hr : row < 32) (hc : col < 64) :
    fbXor { s with fb := s.fb.put row col (s.fb.get row col ^^ b), dirty := true } row col b =
      .ok (!s.fb.get row col && b, { s with dirty := true }) := by
  have hcell : (s.fb.put row col (s.fb.get row col ^^ b)).get row col = (s.fb.get row col ^^ b) := Grid.get_put_same _ _ hr hc
  have hcollision : ((s.fb.get row col ^^ b) && b) = (!s.fb.get row col && b) := by cases b <;> simp
  have hback : ((s.fb.get row col ^^ b) ^^ b) = s.fb.get row col := by rw [Bool.xor_assoc, Bool.xor_self, Bool.xor_false]
  rw [fbXor_ok _ b hr hc]
  simp only [hcell, hcollision, hback, Grid.put_put_get s.fb _ hr hc]

/-- Settles O42: inside the grid from the two calls in turn, outside it from the fault. -/
theorem xorIsItsOwnInverse : Obligations.XorIsItsOwnInverse := by
  intro s row col b
  refine ⟨fun hr hc => ?_, fun hout => ?_⟩
  · exact ⟨_, _, _, _, fbXor_ok s b hr hc, fbXor_fbXor s b hr hc, rfl, rfl, Grid.get_put_same _ _ hr hc,
      fun _ _ _ _ h => Grid.get_put_other _ _ hr hc h, rfl, rfl, rfl, rfl, rfl⟩
  · exact ⟨_, fbXor_error s b hout, rfl, rfl, BitVec.toNat_ofNat .., rfl⟩

/-! ## Drawing a sprite (R144) -/

theorem flagByte_eq_one_iff {f : Bool} : flagByte f = 1 ↔ f = true := by cases f <;> decide

theorem flagByte_one_or_zero (f : Bool) : flagByte f = 1 ∨ flagByte f = 0 := by cases f <;> decide

/-- Settles O43: the rows are drawn before VF, the only register written, gets the collision. -/
theorem drawXorsTheSprite : Obligations.DrawXorsTheSprite := by
  intro x y n s
  refine ⟨decode_eq_iff (i := .drw x y n) rfl, fun hmem => ?_⟩
  obtain ⟨hit, t, hexec, hframe, hcells, hdirty, hhit⟩ := execDrw_ok x y n s hmem
  have hflag : (t.setV regVF (flagByte hit)).getV regVF = flagByte hit := t.getV_setV_same regVF _
  refine ⟨t.setV regVF (flagByte hit), hexec, hcells, ?_, ?_, hdirty, fun r hr => ?_, ?_⟩
  · rw [hflag]; exact flagByte_one_or_zero hit
  · rw [hflag]; exact flagByte_eq_one_iff.trans hhit
  · rw [t.getV_setV_ne _ hr, hframe]; rfl
  · rw [hframe]; rfl

/-- Settles O44: the fault is raised in the state that the rows before it leave. -/
theorem drawFaultsOutsideMemory : Obligations.DrawFaultsOutsideMemory := by
  intro x y n s k hk hrow hout hin
  obtain ⟨t, hexec, hframe, hcells, hdirty⟩ := execDrw_fault x y n s k hk hrow hout hin
  refine ⟨t.raise .memOob (s.ea k), hexec, hcells, hdirty, rfl, rfl, BitVec.toNat_ofNat .., ?_⟩
  rw [hframe]; rfl

/-- Settles O45: the second draw XORs every cell with the bit of the first, and meets a set cell where the first set one. -/
theorem drawTwiceRestoresTheScreen : Obligations.DrawTwiceRestoresTheScreen := by
  intro x y n s hmem
  obtain ⟨-, hdraw⟩ := drawXorsTheSprite x y n s
  obtain ⟨t, hexec, hcells, -⟩ := hdraw hmem
  refine ⟨t, hexec, fun u hfb hm hi hx hy => ?_⟩
  have hea : ∀ r, u.ea r = s.ea r := fun r => by rw [State.ea, State.ea, hi]
  have hcol : drawColumn u x = drawColumn s x := by rw [drawColumn, drawColumn, hx]
  have hrow : drawRow u y = drawRow s y := by rw [drawRow, drawRow, hy]
  obtain ⟨-, hdraw'⟩ := drawXorsTheSprite x y n u
  obtain ⟨w, hexec', hcells', -, hflag, -⟩ := hdraw' fun r hr hclip => by
    rw [hea]; exact hmem r hr (by rwa [hrow] at hclip)
  simp only [hcol, hrow, hfb, spriteBit_congr hm hi] at hcells' hflag
  refine ⟨w, hexec', Grid.eq_of_get fun r c hr hc => ?_, ?_⟩
  · rw [hcells' r c hr hc, hcells r c hr hc, Bool.xor_assoc, Bool.xor_self, Bool.xor_false]
  · rintro ⟨r, c, hr, hc, hclear, hbit⟩
    exact hflag.mpr ⟨r, c, hr, hc, by rw [hcells r c hr hc, hclear, hbit]; rfl, hbit⟩

end Sys2Proof.Machine
end

section
/-! SUPPORT. Keypad, timers, random (R150 to R158). -/

namespace Sys2Proof.Machine

/-! ## Random and timers -/

/-- Settles O46: the byte written is the bitwise AND of the draw and the mask, read bit by bit. -/
theorem randomIsMasked : Obligations.RandomIsMasked := fun x nn s =>
  ⟨decode_eq_iff (i := .rnd x nn) rfl, s.setV x (rand8 s &&& nn), rfl,
    fun k => by rw [State.getV_setV_same, BitVec.getLsbD_and, rand8], fun _ => s.getV_setV_ne _, rfl⟩

/-- Settles O49: each instruction is one write, of V[X], DT or ST. -/
theorem timerTransfers : Obligations.TimerTransfers := fun x s =>
  ⟨decode_eq_iff (i := .ldVxDt x) rfl, decode_eq_iff (i := .ldDtVx x) rfl, decode_eq_iff (i := .ldStVx x) rfl,
    ⟨s.setV x s.dt, rfl, s.getV_setV_same x s.dt, fun _ => s.getV_setV_ne _, rfl⟩,
    ⟨s.setDt (s.getV x), rfl, rfl, rfl⟩, ⟨s.setSt (s.getV x), rfl, rfl, rfl⟩⟩

/-! ## Skips on a key -/

/-- Skipping on a key that is not held is the complement of skipping on one that is (R153, R154). -/
theorem State.skipIf_not_pc (s : State) (c : Bool) : (s.skipIf (!c)).pc = if c then s.pc else s.pc + 2 := by
  cases c <;> rfl

/-- The value of a register fits in the information of a fault. -/
theorem State.raise_byte_info_toNat (s : State) (c : Cause) (b : Byte) : (s.raise c b.toNat).info.toNat = b.toNat := by
  have hb := b.isLt
  exact (BitVec.toNat_ofNat ..).trans (Nat.mod_eq_of_lt (by omega))

section
variable {x : Reg} {s : State}

theorem execSkp_ok (h : (s.getV x).toNat ≤ 15) : execSkp x s = .next (s.skipIf (keyHeld s (s.getV x).toNat)) := if_neg h.not_gt

theorem execSkp_fault (h : 15 < (s.getV x).toNat) : execSkp x s = .next (s.raise .keyRange (s.getV x).toNat) := if_pos h

theorem execSknp_ok (h : (s.getV x).toNat ≤ 15) : execSknp x s = .next (s.skipIf (!keyHeld s (s.getV x).toNat)) := if_neg h.not_gt

theorem execSknp_fault (h : 15 < (s.getV x).toNat) : execSknp x s = .next (s.raise .keyRange (s.getV x).toNat) := if_pos h

end

/-- Settles O47, from what the two skips answer on either side of 15. -/
theorem skipsOnKey : Obligations.SkipsOnKey := by
  intro x s
  refine ⟨decode_eq_iff (i := .skp x) rfl, decode_eq_iff (i := .sknp x) rfl, fun h => ⟨?_, ?_⟩, fun h => ?_⟩
  · exact ⟨_, execSkp_ok h, s.skipIf_pc (keyHeld s (s.getV x).toNat), rfl⟩
  · exact ⟨_, execSknp_ok h, s.skipIf_not_pc (keyHeld s (s.getV x).toNat), rfl⟩
  · exact ⟨_, execSkp_fault h, execSknp_fault h, rfl, rfl, s.raise_byte_info_toNat .keyRange (s.getV x), rfl⟩

/-! ## The key wait -/

theorem leastHeldKey_eq_some_iff {s : State} {k : Nat} :
    leastHeldKey s = some k ↔ keyHeld s k = true ∧ k < 16 ∧ ∀ j, j < k → keyHeld s j = false := by
  simp [leastHeldKey, List.find?_range_eq_some]

theorem leastHeldKey_eq_none_iff {s : State} : leastHeldKey s = none ↔ ∀ k, k < 16 → keyHeld s k = false := by
  simp [leastHeldKey]

theorem execLdVxKey_of_some {x : Reg} {s : State} {k : Nat} (h : leastHeldKey s = some k) :
    execLdVxKey x s = .next (s.setV x (BitVec.ofNat 8 k)) := by
  rw [execLdVxKey, h]

theorem execLdVxKey_of_none {x : Reg} {s : State} (h : leastHeldKey s = none) : execLdVxKey x s = .next (s.setPc (s.pc - 2)) := by
  rw [execLdVxKey, h]

/-- Settles O48: the key looked for is the one of the premise, or there is none. -/
theorem keyWaitTakesLeastOrRepeats : Obligations.KeyWaitTakesLeastOrRepeats := by
  intro x s
  refine ⟨decode_eq_iff (i := .ldVxKey x) rfl, fun k hk hheld hleast => ?_, fun hkeys => ?_⟩
  · have hsome : leastHeldKey s = some k := leastHeldKey_eq_some_iff.mpr ⟨hheld, hk, hleast⟩
    refine ⟨_, execLdVxKey_of_some hsome, ?_, fun _ => s.getV_setV_ne _, rfl⟩
    rw [State.getV_setV_same, BitVec.toNat_ofNat, Nat.mod_eq_of_lt (by omega)]
  · have hnone : leastHeldKey s = none := leastHeldKey_eq_none_iff.mpr fun k _ => by rw [keyHeld, hkeys]; exact BitVec.getLsbD_zero
    exact ⟨_, execLdVxKey_of_none hnone, BitVec.sub_add_cancel s.pc 2, rfl⟩

end Sys2Proof.Machine
end

section
/-! SUPPORT. The words outside the table (R170, R171). -/

namespace Sys2Proof

/-- The words that read as themselves are those of the class table: what decodes is well formed, and a well-formed term is the reading of its
encoding. -/
theorem unimplementedWord_iff_decode (w : Word) : unimplementedWord w = true ↔ decode w = .unimpl w := by
  refine ⟨decode_of_unimplementedWord, fun hdecode => ?_⟩
  have hwf : (decode w).wf = true := (encodeAfterDecode w).2
  rwa [hdecode] at hwf

namespace Machine

/-- Running an unimplemented word emits its report (R171). -/
theorem exec_unimpl (w : Word) (s : State) : exec (.unimpl w) s = .next (s.emit (.report w)) := rfl

/-- Settles O50: the class table is the decoder's catch-all, and emitting an event writes the event list only. -/
theorem unimplementedWordReports : Obligations.UnimplementedWordReports := fun w s =>
  ⟨unimplementedWord_iff_decode w, s.emit (.report w), exec_unimpl w s, s.emit_events (.report w), rfl⟩

end Machine

end Sys2Proof
end

section
/-! SUPPORT. Ticks, the sound sample, and what an iteration does around its instruction (R192 to R199, R203, R216). -/

namespace Sys2Proof.Machine

/-! ## Ticks (R195, R197) -/

/-- Settles O51: each timer is counted down on its own. -/
theorem ticksCountDownToZero : Obligations.TicksCountDownToZero := fun s k =>
  ⟨countDownBy_toNat k s.dt, countDownBy_toNat k s.st, s.ticks_succ k, rfl⟩

theorem countDownBy_countDownBy_toNat (b : Byte) (n m : Nat) : (countDownBy (countDownBy b n) m).toNat = b.toNat - n - m := by
  rw [countDownBy_toNat, countDownBy_toNat]

/-- A timer is still running after n ticks when it held more than n. -/
theorem countDownBy_ne_zero_iff (b : Byte) (n : Nat) : countDownBy b n ≠ 0 ↔ n < b.toNat := by
  have hleft := countDownBy_toNat n b
  have hzero : (0 : Byte).toNat = 0 := rfl
  rw [ne_eq, ← BitVec.toNat_inj]
  omega

/-- Writes that leave both timers alone can be made before a tick or after it. -/
theorem Update.apply_tick {U : Update} (hdt : U.dt = none) (hst : U.st = none) (s : State) : U.apply s.tick = (U.apply s).tick := by
  simp only [Update.apply, State.tick, hdt, hst, Option.getD_none]

/-- An instruction that makes no timer access writes no timer. -/
theorem Permitted.no_timer {i : Instr} {s : State} {U : Update} (hU : Permitted i s U) (hi : accessesTimer i = false) :
    U.dt = none ∧ U.st = none := by
  refine ⟨Option.eq_none_iff_forall_ne_some.mpr fun b hb => ?_, Option.eq_none_iff_forall_ne_some.mpr fun b hb => ?_⟩
  · obtain ⟨x, rfl⟩ := hU.dt b hb
    cases hi
  · obtain ⟨x, rfl⟩ := hU.st b hb
    cases hi

/-- Settles O52: the tick changes nothing that the instruction reads, so the writes are the same, and none of them is to a timer. -/
theorem tickCommutesWithInstructions : Obligations.TickCommutesWithInstructions := by
  intro i s hi
  obtain ⟨U, hU, hexec, hexec'⟩ := exec_same_update i (s := s) (u := s.tick) rfl (fun h => absurd h (by simp [hi])) (fun _ => rfl)
  obtain ⟨hdt, hst⟩ := hU.no_timer hi
  exact ⟨U.apply s, hexec, by rw [hexec', Update.apply_tick hdt hst]⟩

/-! ## The sound sample (R199) -/

theorem soundSample_sounding_iff (s : State) : (soundSample s).sounding = true ↔ s.st ≠ 0 := by simp

/-- The sample emits the event of the level it finds, when that is not the level last reported. -/
theorem soundSample_emits (s : State) : (soundSample s).events =
    (if (soundSample s).sounding = s.sounding then [] else if (soundSample s).sounding then [.playSound] else [.stopSound]) ++ s.events := by
  rw [State.soundSample_events, ← State.soundSample_sounding]
  cases (soundSample s).sounding <;> cases s.sounding <;> rfl

/-- Settles O53, by the level found and the level last reported. -/
theorem soundSampleReportsEdges : Obligations.SoundSampleReportsEdges := by
  intro s
  have hlevel := soundSample_sounding_iff s
  have hemits := soundSample_emits s
  refine ⟨hlevel, fun h => ?_, fun hst hold => ?_, fun hst hold => ?_, rfl⟩
  · rw [hemits, if_pos (Bool.eq_iff_iff.mpr (hlevel.trans h))]; rfl
  · rw [hemits, hlevel.mpr hst, hold]; rfl
  · have hsilent : (soundSample s).sounding = false := by simp [hst]
    rw [hemits, hsilent, hold]; rfl

/-- The sample keeps the alternation: it emits `playSound` from silent and `stopSound` from sounding only. -/
theorem soundSample_soundCoherent {s : State} (hs : s.soundCoherent) : (soundSample s).soundCoherent := by
  rw [State.soundCoherent] at hs ⊢
  rw [soundSample_emits]
  cases hnow : (soundSample s).sounding <;> cases hold : s.sounding <;> simp [soundLevel, hs, hold]

theorem Update.apply_sounding (U : Update) (s : State) : (U.apply s).sounding = s.sounding := rfl

/-- An instruction emits at most a report, which is no sound event. -/
theorem exec_keeps_soundCoherent {i : Instr} {s t : State} (hs : s.soundCoherent) (h : exec i s = .next t) : t.soundCoherent := by
  obtain ⟨U, hU, rfl⟩ := exec_inv h
  cases he : U.event with
  | none => simpa [State.soundCoherent, Update.apply_sounding, he] using hs
  | some e =>
    obtain ⟨w, rfl⟩ := hU.event e he
    rw [exec_unimpl, Host.Outcome.next.injEq] at h
    rw [← h]
    exact hs

theorem afterStep_keeps_soundCoherent {s : State} (hs : s.soundCoherent) : s.afterStep.soundCoherent := by
  have hsample : (soundSample (s.ticks s.turn.ticksAfter)).soundCoherent := soundSample_soundCoherent hs
  cases hf : s.faulted with
  | true => rwa [afterStep_faulted hf]
  | false =>
    rcases afterStep_cases hf with h | h | h | h <;> rw [h]
    · exact hsample
    · exact hs
    · exact hsample
    · exact hsample

/-- Settles O54: only the sample emits sound events or writes SOUNDING. -/
theorem soundEventsAlternate : Obligations.SoundEventsAlternate := by
  intro s t hs h
  obtain ⟨-, -, ⟨-, rfl⟩ | ⟨-, -, rfl⟩ | ⟨-, -, -, rfl⟩ | ⟨-, -, -, u, hu, rfl⟩⟩ := step_cases h
  · exact hs
  · exact hs
  · exact hs
  · exact afterStep_keeps_soundCoherent (exec_keeps_soundCoherent (s := s.drawPhase.setPc (s.pc + 2)) hs hu)

/-! ## What follows the instruction (R192, R216) -/

section
variable {s : State} (hf : s.faulted = false)
include hf

theorem afterStep_of_afterStep (he : s.turn.hostError = .afterStep) : s.afterStep = (s.ticks s.turn.ticksAfter).raise .hostError 0 := by
  simp only [State.afterStep, hf, he, Bool.false_eq_true, if_false]

/-- Unless the host fails before the sound sample, the iteration comes through it. -/
theorem afterStep_through_sample (he : s.turn.hostError ≠ .afterStep) :
    s.afterStep.dt = s.soundPhase.dt ∧ s.afterStep.st = s.soundPhase.st ∧ s.afterStep.sounding = s.soundPhase.sounding := by
  cases h : s.turn.hostError
  case afterStep => exact absurd h he
  all_goals simp only [State.afterStep, hf, h, Bool.false_eq_true, if_false]; exact ⟨rfl, rfl, rfl⟩

/-- The host's step event comes after the sample's event, unless the host failed between them. -/
theorem afterStep_events (he : s.turn.hostError ≠ .afterStep) :
    s.afterStep.events = (if s.turn.hostError = .afterSample then [] else [.hostStep]) ++ s.soundPhase.events := by
  cases h : s.turn.hostError
  case afterStep => exact absurd h he
  all_goals simp [State.afterStep, hf, h]

/-- A host failure after the step raises HOST_ERROR, wherever it lands. -/
theorem afterStep_of_host_failure (he : s.turn.hostError = .afterStep ∨ s.turn.hostError = .afterSample ∨ s.turn.hostError = .afterHostStep) :
    s.afterStep.faulted = true ∧ s.afterStep.cause = .hostError ∧ s.afterStep.info = 0 := by
  rcases he with he | he | he <;> simp only [State.afterStep, hf, he, Bool.false_eq_true, if_false] <;> exact ⟨rfl, rfl, rfl⟩

theorem afterStep_of_no_failure (he : s.turn.hostError = .none ∨ s.turn.hostError = .beforeStep) :
    s.afterStep = s.soundPhase.emit .hostStep := by
  rcases he with he | he <;> simp only [State.afterStep, hf, he, Bool.false_eq_true, if_false]

end

/-- Settles O6, phase by phase; what follows the instruction by whether it faulted and by whether the host fails before the sample. -/
theorem aroundTheInstruction : Obligations.AroundTheInstruction := by
  intro s
  refine ⟨?_, afterStep_faulted, fun hf he => ?_, fun hf he => ?_⟩
  · exact ⟨countDownBy_toNat s.turn.ticksBefore s.dt, countDownBy_toNat s.turn.ticksBefore s.st, rfl, rfl, rfl⟩
  · rw [afterStep_of_afterStep hf he]
    exact ⟨countDownBy_toNat s.turn.ticksAfter s.dt, countDownBy_toNat s.turn.ticksAfter s.st, rfl, rfl, rfl, rfl⟩
  · obtain ⟨hdt, hst, hsounding⟩ := afterStep_through_sample hf he
    refine ⟨?_, ?_, ?_, ?_, fun hfail => afterStep_of_host_failure hf (.inr hfail), fun hno => ?_, afterStep_frame s⟩
    · rw [hdt, State.soundPhase_dt, countDownBy_countDownBy_toNat]
    · rw [hst, State.soundPhase_st, countDownBy_countDownBy_toNat]
    · rw [hsounding]
      exact (soundSample_sounding_iff (s.ticks s.turn.ticksAfter)).trans (countDownBy_ne_zero_iff ..)
    · rw [hsounding, afterStep_events hf he, List.append_assoc]
      exact congrArg _ (soundSample_emits (s.ticks s.turn.ticksAfter))
    · rw [afterStep_of_no_failure hf hno]
      exact ⟨hf, rfl, rfl⟩

/-- The draw event belongs to the draw phase: what follows the instruction emits none. -/
theorem afterStep_emits_no_draw (s : State) : ∃ es, s.afterStep.events = es ++ s.events ∧ ∀ d, OutEvent.draw d ∉ es := by
  obtain ⟨-, hfaulted, -, hthrough⟩ := aroundTheInstruction s
  cases hf : s.faulted with
  | true => exact ⟨[], congrArg State.events (hfaulted hf), fun _ => List.not_mem_nil⟩
  | false =>
    by_cases he : s.turn.hostError = .afterStep
    · exact ⟨[], by rw [afterStep_of_afterStep hf he]; rfl, fun _ => List.not_mem_nil⟩
    · obtain ⟨-, -, -, hevents, -⟩ := hthrough hf he
      refine ⟨_, hevents, fun d => ?_⟩
      rw [List.mem_append, not_or]
      exact ⟨by split_ifs <;> simp, by split_ifs <;> simp⟩

/-! ## The host's failure (R192) -/

/-- A failure before the step ends the iteration at the draw. -/
theorem step_eq_host_failure {s : State} (hrun : s.running) (hstop : s.turn.stopReq = false) (he : s.turn.hostError = .beforeStep) :
    step s = .next (s.drawPhase.raise .hostError 0).endTurn := by
  obtain ⟨hfaulted, hended⟩ := hrun
  simp only [step, iteration, hfaulted, hended, hstop, he, Bool.false_eq_true, if_false, if_true]

/-- An instruction uses up none of the iteration's inputs. -/
theorem exec_turn {i : Instr} {s t : State} (h : exec i s = .next t) : t.turn = s.turn := by
  obtain ⟨U, -, rfl⟩ := exec_inv h
  rfl

/-- Settles O10: before the step the failure is raised at the draw; after it, in what follows an instruction that did not fault. -/
theorem hostErrorEndsTheRun : Obligations.HostErrorEndsTheRun := by
  intro s hrun hstop
  refine ⟨fun he => ⟨_, step_eq_host_failure hrun hstop he, rfl, rfl, rfl, rfl⟩, fun he hpc u hu hf => ?_⟩
  have hhost : s.hostLetsRun := ⟨hstop, fun hbefore => by simp [hbefore] at he⟩
  have hstep : step s = .next u.afterStep.endTurn := by rw [step_eq_exec hrun hhost hpc, hu]; rfl
  have hturn : u.turn = s.turn := exec_turn (s := s.drawPhase.setPc (s.pc + 2)) hu
  rw [← hturn] at he
  obtain ⟨hfaulted, hcause, hinfo⟩ := afterStep_of_host_failure hf he
  exact ⟨_, hstep, hfaulted, hcause, hinfo, afterStep_emits_no_draw u, congrArg State.endTurn (afterStep_frame u)⟩

end Sys2Proof.Machine
end

section
/-! SUPPORT. The faults of each instruction (R181 to R183): under which condition it raises one, and with which cause. -/

namespace Sys2Proof.Machine

/-! ## One instruction at a time

Each either answers a state with FAULTED as it was, or meets the condition of its row of R182. -/

/-- When one address of a transfer is outside memory, so is the last. -/
theorem State.ea_last_of_le {k n : Nat} {s : State} (hk : k ≤ n) (hout : 4096 ≤ s.ea k) : 4096 ≤ s.ea n :=
  hout.trans (Nat.add_le_add_left hk s.i.toNat)

section
variable {s t : State} {x y : Reg} (hnew : t.faulted ≠ s.faulted)
include hnew

theorem ret_faults (h : exec .ret s = .next t) : s.sp = 0 ∧ t.cause = .stackUnderflow := by
  by_cases hsp : s.sp = 0
  · cases (execRet_fault s hsp).symm.trans h
    exact ⟨hsp, rfl⟩
  · cases (execRet_ok s (Nat.pos_of_ne_zero hsp)).symm.trans h
    exact absurd rfl hnew

theorem call_faults {nnn : Addr12} (h : exec (.call nnn) s = .next t) : 128 ≤ s.sp ∧ t.cause = .stackOverflow := by
  by_cases hsp : 128 ≤ s.sp
  · cases (execCall_fault nnn s hsp).symm.trans h
    exact ⟨hsp, rfl⟩
  · cases (execCall_ok nnn s (Nat.lt_of_not_le hsp)).symm.trans h
    exact absurd rfl hnew

theorem drw_faults {n : Nibble} (h : exec (.drw x y n) s = .next t) :
    ∃ r, r < n.toNat ∧ drawRow s y + r < 32 ∧ 4096 ≤ s.ea r ∧ t.cause = .memOob := by
  rcases draw_cases s (drawRow s y) n.toNat with hmem | ⟨k, hk, hrow, hout, hin⟩
  · obtain ⟨hit, u, hexec, hframe, -⟩ := execDrw_ok x y n s hmem
    cases hexec.symm.trans h
    rw [hframe] at hnew
    exact absurd rfl hnew
  · obtain ⟨u, hexec, -⟩ := execDrw_fault x y n s k hk hrow hout hin
    cases hexec.symm.trans h
    exact ⟨k, hk, hrow, hout, rfl⟩

theorem skp_faults (h : exec (.skp x) s = .next t) : 15 < (s.getV x).toNat ∧ t.cause = .keyRange := by
  by_cases hx : 15 < (s.getV x).toNat
  · cases (execSkp_fault hx).symm.trans h
    exact ⟨hx, rfl⟩
  · cases (execSkp_ok (Nat.le_of_not_lt hx)).symm.trans h
    exact absurd rfl hnew

theorem sknp_faults (h : exec (.sknp x) s = .next t) : 15 < (s.getV x).toNat ∧ t.cause = .keyRange := by
  by_cases hx : 15 < (s.getV x).toNat
  · cases (execSknp_fault hx).symm.trans h
    exact ⟨hx, rfl⟩
  · cases (execSknp_ok (Nat.le_of_not_lt hx)).symm.trans h
    exact absurd rfl hnew

theorem ldFont_faults (h : exec (.ldFont x) s = .next t) : 15 < (s.getV x).toNat ∧ t.cause = .glyphRange := by
  by_cases hx : 15 < (s.getV x).toNat
  · cases (execLdFont_fault x s hx).symm.trans h
    exact ⟨hx, rfl⟩
  · cases (execLdFont_ok x s (Nat.le_of_not_lt hx)).symm.trans h
    exact absurd rfl hnew

theorem bcd_faults (h : exec (.bcd x) s = .next t) : 4096 ≤ s.ea 2 ∧ t.cause = .memOob := by
  rcases transfer_cases s 2 with hmem | ⟨k, hk, hout, hin⟩
  · cases (execBcd_ok x s hmem).symm.trans h
    exact absurd rfl hnew
  · cases (execBcd_fault x s k hk hout hin).symm.trans h
    exact ⟨State.ea_last_of_le hk hout, rfl⟩

theorem stRegs_faults (h : exec (.stRegs x) s = .next t) : 4096 ≤ s.ea x.toNat ∧ t.cause = .memOob := by
  rcases transfer_cases s x.toNat with hmem | ⟨k, hk, hout, hin⟩
  · cases (execStRegs_ok x s hmem).symm.trans h
    exact absurd rfl hnew
  · cases (execStRegs_fault x s k hk hout hin).symm.trans h
    exact ⟨State.ea_last_of_le hk hout, rfl⟩

theorem ldRegs_faults (h : exec (.ldRegs x) s = .next t) : 4096 ≤ s.ea x.toNat ∧ t.cause = .memOob := by
  rcases transfer_cases s x.toNat with hmem | ⟨k, hk, hout, hin⟩
  · obtain ⟨u, hexec, hframe, -⟩ := execLdRegs_ok x s hmem
    cases hexec.symm.trans h
    rw [hframe] at hnew
    exact absurd rfl hnew
  · obtain ⟨u, hexec, -⟩ := execLdRegs_fault x s k hk hout hin
    cases hexec.symm.trans h
    exact ⟨State.ea_last_of_le hk hout, rfl⟩

end

/-! ## Every instruction -/

/-- Every instruction answers a next state. -/
theorem exec_answers_next (i : Instr) (s : State) : ∃ t, exec i s = .next t := by
  obtain ⟨U, -, hexec, -⟩ := exec_same_update i (s := s) (u := s) rfl (fun _ => rfl) (fun _ => rfl)
  exact ⟨_, hexec⟩

/-- FAULTED changes only in an instruction that has a row in R182. -/
theorem canFault_of_faulted_ne {i : Instr} {s t : State} (h : exec i s = .next t) (hnew : t.faulted ≠ s.faulted) : canFault i = true := by
  obtain ⟨U, hU, rfl⟩ := exec_inv h
  exact hU.canFault_of_ne (.inl hnew)

/-- Settles O57: an instruction that can fault does so under the condition of its row; the others are excluded by their permitted writes. -/
theorem instructionsRaiseOnlyTheirFaults : Obligations.InstructionsRaiseOnlyTheirFaults := by
  intro i s
  obtain ⟨t, h⟩ := exec_answers_next i s
  refine ⟨t, h, fun hs ht => ?_⟩
  have hnew : t.faulted ≠ s.faulted := by rw [hs, ht]; decide
  have hcan := canFault_of_faulted_ne h hnew
  cases i with
  | ret => exact .inl ⟨rfl, ret_faults hnew h⟩
  | call nnn => exact .inr (.inl ⟨nnn, rfl, call_faults hnew h⟩)
  | drw x y n =>
    obtain ⟨r, hr⟩ := drw_faults hnew h
    exact .inr (.inr (.inl ⟨x, y, n, r, rfl, hr⟩))
  | skp x => exact .inr (.inr (.inr (.inl ⟨x, .inl rfl, skp_faults hnew h⟩)))
  | sknp x => exact .inr (.inr (.inr (.inl ⟨x, .inr rfl, sknp_faults hnew h⟩)))
  | ldFont x => exact .inr (.inr (.inr (.inr (.inl ⟨x, rfl, ldFont_faults hnew h⟩))))
  | bcd x => exact .inr (.inr (.inr (.inr (.inr (.inl ⟨x, rfl, bcd_faults hnew h⟩)))))
  | stRegs x => exact .inr (.inr (.inr (.inr (.inr (.inr ⟨x, .inl rfl, stRegs_faults hnew h⟩)))))
  | ldRegs x => exact .inr (.inr (.inr (.inr (.inr (.inr ⟨x, .inr rfl, ldRegs_faults hnew h⟩)))))
  | _ => exact absurd hcan Bool.false_ne_true

end Sys2Proof.Machine
end

section
/-! SUPPORT. Reset, the program load, and the stop request that ends the run (R14, R191, R196, R210, R214, R216). -/

namespace Sys2Proof.Machine

/-! ## Memory after a block of bytes is written -/

section
variable {bs : List Byte} {m : Memory} {a : Nat} (h : a + bs.length ≤ 4096)
include h

theorem Memory.read_writeBytes_inside {k : Nat} (hk : k < bs.length) : (m.writeBytes a bs).read (a + k) = bs.getD k 0 := by
  rw [Memory.read_writeBytes bs m a _ h, if_pos (by omega), Nat.add_sub_cancel_left]

theorem Memory.read_writeBytes_outside {c : Nat} (hc : c < a ∨ a + bs.length ≤ c) : (m.writeBytes a bs).read c = m.read c := by
  rw [Memory.read_writeBytes bs m a c h, if_neg (by omega)]

end

/-! ## The reset contents of memory (R14, R46) -/

theorem unlistedByte_font {d j : Nat} (hd : d < 16) (hj : j < 5) :
    unlistedByte (0x050 + 5 * d + j) = (fontGlyphs.getD d []).getD j 0 := by
  have hdigit : (0x050 + 5 * d + j - 0x050) / 5 = d := by omega
  have hrow : (0x050 + 5 * d + j - 0x050) % 5 = j := by omega
  rw [unlistedByte, if_pos (by omega), hdigit, hrow]

theorem unlistedByte_outside_font {a : Nat} (ha : a < 0x050 ∨ 0x0A0 ≤ a) : unlistedByte a = 0 := if_neg (by omega)

/-- Reset memory lists no address. -/
theorem State.reset_read (a : Nat) : State.reset.mem.read a = unlistedByte a := rfl

/-! ## The other fields after reset (R210) -/

theorem State.reset_getV (x : Reg) : State.reset.getV x = 0 := Vector.getElem_replicate x.isLt

theorem State.reset_entry (j : Nat) : State.reset.entry j = 0 := by
  rw [State.entry, State.reset, Vector.getElem?_replicate]
  split <;> rfl

/-- Settles O13: memory reads as the reset contents, and no register, stack entry or cell is set. -/
theorem resetState : Obligations.ResetState := by
  refine ⟨fun d j hd hj => ?_, fun a ha => ?_, State.reset_getV, rfl, rfl, rfl, State.reset_entry, Grid.get_blank, rfl,
    rfl, rfl, rfl, rfl, rfl, rfl, rfl, rfl, rfl, rfl, rfl⟩
  · rw [State.reset_read, unlistedByte_font hd hj]
  · rw [State.reset_read, unlistedByte_outside_font ha]

/-- Settles O15: the font covers exactly the addresses at which the reset contents may differ from zero. -/
theorem resetWithParameters : Obligations.ResetWithParameters := by
  intro g font
  have hlen : font.toList.length = 80 := font.length_toList
  have hfit : 0x050 + font.toList.length ≤ 4096 := by omega
  refine ⟨fun j hj => ?_, fun a ha => ?_, Memory.wf_writeBytes font.toList [] 0x050 rfl, rfl, rfl⟩
  · have hread := Memory.read_writeBytes_inside (m := []) hfit (hlen.symm ▸ hj)
    rwa [List.getD_eq_getElem _ _ (hlen.symm ▸ hj), Vector.getElem_toList] at hread
  · calc (State.resetWith g font).mem.read a
      _ = State.reset.mem.read a := Memory.read_writeBytes_outside hfit (by omega)
      _ = 0 := unlistedByte_outside_font ha

/-! ## Program load (R214, R191) -/

theorem loadProgram_ok {image : List Byte} (s : State) (h : image.length ≤ 3584) :
    loadProgram image s = .ok { s with mem := s.mem.writeBytes 0x0200 image } := if_neg (by omega)

theorem loadProgram_error {image : List Byte} (s : State) (h : 3584 < image.length) : loadProgram image s = .error .imageTooLong := if_pos h

/-- Settles O16: an image of at most 3584 bytes ends inside memory, so that each of its bytes is stored. -/
theorem programLoad : Obligations.ProgramLoad := by
  refine fun image s => ⟨fun h => ?_, loadProgram_error s⟩
  have hfit : 0x0200 + image.length ≤ 4096 := by omega
  exact ⟨_, loadProgram_ok s h, fun _ => Memory.read_writeBytes_inside hfit, fun _ => Memory.read_writeBytes_outside hfit, rfl⟩

/-! ## The stop request (R216 line 1) -/

theorem step_eq_endRun {s : State} (hrun : s.running) (hstop : s.turn.stopReq = true) : step s = .next s.endRun := by
  obtain ⟨hfaulted, hended⟩ := hrun
  simp only [step, iteration, hfaulted, hended, hstop, Bool.false_eq_true, if_false, if_true]

/-- Settles O9: the end of the run counts both timers down by the ticks before the poll and keeps every other field of the spec. -/
theorem stopRequestEndsTheRun : Obligations.StopRequestEndsTheRun := by
  intro s hrun hstop
  exact ⟨s.endRun, step_eq_endRun hrun hstop, s.endRun_ended, countDownBy_toNat s.turn.ticksBefore s.dt,
    countDownBy_toNat s.turn.ticksBefore s.st, rfl⟩

end Sys2Proof.Machine
end
